-- ==== Sys2Proof/Word.lean ====
section
/-! DEFINITION. The plain types every other file uses (`00_scope.md` R8): a bit, a byte, a frame. -/

namespace Sys2Proof

/-- A bit, or the level of the digital input line: `true` is 1, the line reads high (R8). -/
abbrev Bit := Bool

/-- A byte; bit 7 is the most significant (R8). -/
abbrev Byte := BitVec 8

/-- The bytes of a frame, or of the demodulator's output buffer, byte 0 first (R8, R160). -/
abbrev Frame := List Byte

end Sys2Proof
end

