-- ==== Sys2Proof/Config.lean ====
section
/-! DEFINITION. The parameters of the block (`00_scope.md` R6), when a choice of them is admitted (R7),
and the values the spec leaves open, as constants without a body. -/

namespace Sys2Proof

/-- One value for each of the six fields, numbered 0 to 5 in the order of R166. -/
structure SixFields (α : Type) where
  rain : α
  temperature : α
  windDirection : α
  windAverage : α
  windGust : α
  humidity : α
deriving DecidableEq, Repr, Inhabited

/-- The six values in the order of R166. -/
def SixFields.toList {α : Type} (x : SixFields α) : List α :=
  [x.rain, x.temperature, x.windDirection, x.windAverage, x.windGust, x.humidity]

/-- Apply `f` to each of the six values. -/
def SixFields.map {α β : Type} (f : α → β) (x : SixFields α) : SixFields β :=
  { rain := f x.rain, temperature := f x.temperature, windDirection := f x.windDirection,
    windAverage := f x.windAverage, windGust := f x.windGust, humidity := f x.humidity }

/-- The constants of one field (R166): bit offset, width, multiplier, addend. -/
structure FieldSpec where
  off : Nat
  width : Nat
  mul : Int
  add : Int
deriving DecidableEq, Repr, Inhabited

/-- Does `v` fit a 32-bit two's-complement integer (R168)? -/
def fitsInt32 (v : Int) : Bool := decide (-(2 ^ 31) ≤ v) && decide (v < 2 ^ 31)

/-- A field is admitted in frames of `msgBits` bits when it lies in the frame (R6) and no raw value
makes the result leave 32 bits (R168). The result is affine in the raw value, so its extremes are at
raw value 0 and at the largest one. -/
def FieldSpec.admitted (msgBits : Nat) (f : FieldSpec) : Bool :=
  decide (1 ≤ f.width) && decide (f.off + f.width ≤ msgBits) && fitsInt32 f.add &&
    fitsInt32 ((2 ^ f.width - 1) * f.mul + f.add)

/-- Which checksum function `CHK` is configured (R162). The spec names none: `uninterpreted id` is a
function of which nothing is known, one for each `id`. `sum8` and `crc8x31` are the two functions
`95_test_vectors.md` section 0 defines for testing (log 3). -/
inductive ChkFn where
  | uninterpreted (id : Nat)
  | sum8
  | crc8x31
deriving DecidableEq, Repr, Inhabited

/-- The parameters of R6. They are hardwired (R28): no operation changes them. -/
structure Config where
  /-- `SAMPLE_LEN`, the capacity of the ring buffer in samples. -/
  sampleLen : Nat
  /-- `MSG_BYTES`, the bytes of a frame. -/
  msgBytes : Nat
  /-- `MIN_SAMPLES`, the shortest run that encodes a bit. -/
  minSamples : Nat
  /-- `SPLIT_SAMPLES`, the last length of the shorter sub-range. -/
  splitSamples : Nat
  /-- `MAX_SAMPLES`, the longest run that encodes a bit. -/
  maxSamples : Nat
  /-- `SHORT_BIT`, the bit a shorter run encodes. -/
  shortBit : Bit
  /-- Is level 0 in `PULSE_LEVELS`? -/
  pulseLow : Bool
  /-- Is level 1 in `PULSE_LEVELS`? -/
  pulseHigh : Bool
  /-- `CHK_LEN`, the trailing checksum bytes of a frame. -/
  chkLen : Nat
  /-- `CHK`, the checksum function. -/
  chk : ChkFn
  /-- `FIELDS`, the layout and scaling of the six fields. -/
  fields : SixFields FieldSpec
  /-- `OVF_RESETS_DEMOD`, read by the pseudo-operation `SERVICE` only (R28). -/
  ovfResetsDemod : Bool
  /-- `T_SAMPLE`, the sample period in a unit the spec does not fix; no rule reads it (R231, log 12). -/
  samplePeriod : Nat
deriving DecidableEq, Repr, Inhabited

/-- `MSG_BITS` (R6). -/
def Config.msgBits (c : Config) : Nat := 8 * c.msgBytes

/-- `DATA_LEN` (R6): the bytes of a frame's data region. -/
def Config.dataLen (c : Config) : Nat := c.msgBytes - c.chkLen

/-- The ceiling of the base-2 logarithm. -/
def clog2 (n : Nat) : Nat := if n ≤ 1 then 0 else Nat.log2 (n - 1) + 1

/-- `IDX_W` (R6): the bits of `head`, `tail` and a sample count. -/
def Config.idxW (c : Config) : Nat := clog2 c.sampleLen

/-- `NB_W` (R6): the bits of `nbits`. -/
def Config.nbW (c : Config) : Nat := clog2 (c.msgBits + 1)

/-- `RUN_W` (R6): the bits of `run`. -/
def Config.runW (c : Config) : Nat := clog2 (c.maxSamples + 2)

/-- The width of the bus `rsp_count` (R11). -/
def Config.countW (c : Config) : Nat := max c.idxW c.nbW

/-- Is level `v` in `PULSE_LEVELS` (R132)? -/
def Config.pulseLevel (c : Config) (v : Bit) : Bool := if v then c.pulseHigh else c.pulseLow

/-- Every constraint of R6 (R7, R168): only such configurations are admitted. The two test checksums
give one byte, so they are admitted with `CHK_LEN = 1` only. -/
def Config.admitted (c : Config) : Bool :=
  decide (2 ≤ c.sampleLen) && decide (2 ≤ c.msgBytes) &&
  decide (1 ≤ c.minSamples) && decide (c.minSamples ≤ c.splitSamples) &&
  decide (c.splitSamples < c.maxSamples) && (c.pulseLow || c.pulseHigh) &&
  decide (1 ≤ c.chkLen) && decide (c.chkLen < c.msgBytes) &&
  (match c.chk with
    | .uninterpreted _ => true
    | .sum8 => decide (c.chkLen = 1)
    | .crc8x31 => decide (c.chkLen = 1)) &&
  c.fields.toList.all (FieldSpec.admitted c.msgBits) && decide (1 ≤ c.samplePeriod)

/-- An admitted configuration of the smallest sizes; it shows that the constraints can be met. -/
def Config.smallest : Config :=
  { sampleLen := 2, msgBytes := 2, minSamples := 1, splitSamples := 1, maxSamples := 2,
    shortBit := false, pulseLow := true, pulseHigh := true, chkLen := 1,
    chk := .uninterpreted 0,
    fields := { rain := ⟨0, 1, 1, 0⟩, temperature := ⟨1, 1, 1, 0⟩, windDirection := ⟨2, 1, 1, 0⟩,
                windAverage := ⟨3, 1, 1, 0⟩, windGust := ⟨4, 1, 1, 0⟩, humidity := ⟨5, 1, 1, 0⟩ },
    ovfResetsDemod := true, samplePeriod := 1 }

/-- A configuration together with the proof that it is admitted. -/
structure AdmittedConfig where
  config : Config := Config.smallest
  isAdmitted : config.admitted = true := by decide
deriving Inhabited

/-- The parameters the block was built with (D27: open): some admitted configuration, of which nothing
else is known (log 2). -/
opaque Config.implementation : AdmittedConfig

/-- U7: what sample cell `i` holds at the `boot`-th release of reset (log 1). -/
opaque Config.powerUpSample (boot i : Nat) : Bit

/-- R162: byte `i` of the checksum of the data bytes `d` under the uninterpreted function `id` (log 3). -/
opaque Config.uninterpretedChk (id : Nat) (d : List Byte) (i : Nat) : Byte

/-- U9: `rsp_bit` in the `k`-th response when the command does not drive it (log 8). -/
opaque Config.freeRspBit (k : Nat) : Bit

/-- U9: `rsp_count` in the `k`-th response when the command does not drive it (log 8). -/
opaque Config.freeRspCount (k : Nat) : Nat

/-- U9: `rsp_ok` in the `k`-th response when the command does not drive it (log 8). -/
opaque Config.freeRspOk (k : Nat) : Bool

/-- U9: byte `j` of `rsp_frame` in the `k`-th response when the command does not drive it (log 8). -/
opaque Config.freeRspByte (k j : Nat) : Byte

/-- U9: `rsp_field<f>` in the `k`-th response when the command does not drive it (log 8). -/
opaque Config.freeRspField (k f : Nat) : BitVec 32

end Sys2Proof
end

