-- ==== Sys2Proof/Syntax.lean ====
section
/-! DEFINITION. The twelve operations (`30_encoding.md` R84) and the words the two ports carry (R80). -/

namespace Sys2Proof

/-- The operations of R84, one constructor per row of `spec/opcode_table.json`. -/
inductive Instr where
  /-- `RB.WRITE b` (R110): the producer appends one sample. -/
  | rbWrite (b : Bit)
  /-- `RB.AVAIL` (R113): the number of buffered samples. -/
  | rbAvail
  /-- `RB.READ` (R116): takes the oldest sample. -/
  | rbRead
  /-- `RB.RESET` (R118): discards the buffered samples, in two atomic steps. -/
  | rbReset
  /-- `DM.PROC b` (R130): the demodulator takes one sample. -/
  | dmProc (b : Bit)
  /-- `DM.RXLEN` (R137): the number of bits decoded so far. -/
  | dmRxlen
  /-- `DM.GETMSG` (R138): the output buffer. -/
  | dmGetmsg
  /-- `DM.RESET` (R139): clears the demodulator. -/
  | dmReset
  /-- `FD.VALIDATE F` (R164): does the checksum of `F` verify. -/
  | fdValidate (F : Frame)
  /-- `FD.DECODE F` (R167): the six scaled fields of `F`. -/
  | fdDecode (F : Frame)
  /-- `FD.VDEC F` (R170): validate and decode. -/
  | fdVdec (F : Frame)
  /-- `FD.RAW F` (R171): pass `F` through unchanged. -/
  | fdRaw (F : Frame)
deriving DecidableEq, Repr

/-- What the consumer presents on the command port (R11): the command byte `cmd[7:0]` and the value
of the `cmd_frame` bus, an unsigned number whose bit `i` is bus bit `i`. -/
structure Command where
  cmd : Byte
  cmdFrame : Nat
deriving DecidableEq, Repr

/-- One word on one of the two ports (R80): format S on the sample port, format C on the command
port. -/
inductive PortWord where
  | sample (b : Bit)
  | command (w : Command)
deriving DecidableEq, Repr

end Sys2Proof
end

