-- ==== Sys2Proof/WellFormed.lean ====
section
/-! DEFINITION. When an operation and a presented command are well formed in a configuration
(`30_encoding.md` R83). Admitted configurations are `Config.admitted` (R7). -/

namespace Sys2Proof

/-- A frame operand has exactly `MSG_BYTES` bytes (R83, R160). -/
def Frame.wellFormed (c : Config) (F : Frame) : Bool := F.length == c.msgBytes

/-- An operation is well formed when its frame operand is; the other operations have no operand that
could be ill formed (R83: both values of `b` are legal). -/
def Instr.wellFormed (c : Config) : Instr → Bool
  | .rbWrite _ => true
  | .rbAvail => true
  | .rbRead => true
  | .rbReset => true
  | .dmProc _ => true
  | .dmRxlen => true
  | .dmGetmsg => true
  | .dmReset => true
  | .fdValidate F => Frame.wellFormed c F
  | .fdDecode F => Frame.wellFormed c F
  | .fdVdec F => Frame.wellFormed c F
  | .fdRaw F => Frame.wellFormed c F

/-- The value on `cmd_frame` fits the `MSG_BITS`-bit bus (R11). -/
def Command.wellFormed (c : Config) (w : Command) : Bool := decide (w.cmdFrame < 2 ^ c.msgBits)

end Sys2Proof
end

