-- ==== Sys2Proof/Decode.lean ====
section
/-! DEFINITION. From the words of the two ports to operations (`30_encoding.md` R80 to R89), total and
rejecting by name; then the encoder. -/

namespace Sys2Proof

/-- Why a word is no operation. -/
inductive DecodeError where
  /-- One of the 244 reserved command bytes (R88). -/
  | reserved (cmd : Byte)
deriving DecidableEq, Repr

/-- `F[j] = cmd_frame[MSG_BITS-1-8j : MSG_BITS-8-8j]` (R83): byte 0 in the top eight bits. -/
def busByte (c : Config) (bus j : Nat) : Byte := BitVec.ofNat 8 (bus / 2 ^ (c.msgBits - 8 - 8 * j))

/-- The frame operand on the bus `cmd_frame` (R83). -/
def busFrame (c : Config) (bus : Nat) : Frame := (List.range c.msgBytes).map (busByte c bus)

/-- The value of a frame on the `cmd_frame` or `rsp_frame` bus (R11, R83): byte 0 is the most
significant. -/
def frameBus (F : Frame) : Nat := F.foldl (fun acc B => 256 * acc + B.toNat) 0

/-- `cmd[7:6]` (R81). -/
def unitField (w : Byte) : Nat := w.toNat / 64

/-- `cmd[5:4]` (R81). -/
def functField (w : Byte) : Nat := w.toNat / 16 % 4

/-- `cmd[3:1]` (R81). -/
def zeroField (w : Byte) : Nat := w.toNat / 2 % 8

/-- `cmd[0]` (R81). -/
def bField (w : Byte) : Nat := w.toNat % 2

/-- The operation that the fields of a command byte select (R81, R85); `none` where they are reserved
(R88). -/
def selectInstr (F : Frame) (unit funct zeros b : Nat) : Option Instr :=
  match unit, funct, zeros, b with
  | 0, 0, 0, 0 => some .rbAvail
  | 0, 1, 0, 0 => some .rbRead
  | 0, 2, 0, 0 => some .rbReset
  | 1, 0, 0, 0 => some (.dmProc false)
  | 1, 0, 0, 1 => some (.dmProc true)
  | 1, 1, 0, 0 => some .dmRxlen
  | 1, 2, 0, 0 => some .dmGetmsg
  | 1, 3, 0, 0 => some .dmReset
  | 2, 0, 0, 0 => some (.fdValidate F)
  | 2, 1, 0, 0 => some (.fdDecode F)
  | 2, 2, 0, 0 => some (.fdVdec F)
  | 2, 3, 0, 0 => some (.fdRaw F)
  | _, _, _, _ => none

/-- Decoding of format C (R81, R83, R86). `cmd_frame` is ignored by the RB and DM commands. -/
def decodeCommand (c : Config) (w : Command) : Except DecodeError Instr :=
  match selectInstr (busFrame c w.cmdFrame) (unitField w.cmd) (functField w.cmd) (zeroField w.cmd)
      (bField w.cmd) with
  | some i => .ok i
  | none => .error (.reserved w.cmd)

/-- Decoding of format S (R82): there is no reserved sample word. -/
def decodeSample (b : Bit) : Instr := .rbWrite b

/-- Decoding of a word of either port (R80, R86). -/
def decode (c : Config) : PortWord → Except DecodeError Instr
  | .sample b => .ok (decodeSample b)
  | .command w => decodeCommand c w

/-- The word of an operation (R82, R85), written from the same table. A frame operand goes on
`cmd_frame`; the other commands leave it 0. -/
def encode : Instr → PortWord
  | .rbWrite b => .sample b
  | .rbAvail => .command ⟨0x00, 0⟩
  | .rbRead => .command ⟨0x10, 0⟩
  | .rbReset => .command ⟨0x20, 0⟩
  | .dmProc b => .command ⟨if b then 0x41 else 0x40, 0⟩
  | .dmRxlen => .command ⟨0x50, 0⟩
  | .dmGetmsg => .command ⟨0x60, 0⟩
  | .dmReset => .command ⟨0x70, 0⟩
  | .fdValidate F => .command ⟨0x80, frameBus F⟩
  | .fdDecode F => .command ⟨0x90, frameBus F⟩
  | .fdVdec F => .command ⟨0xA0, frameBus F⟩
  | .fdRaw F => .command ⟨0xB0, frameBus F⟩

/-- A word of `spec/opcode_table.json` as a word of a port (log 11). Fewer than eight bits: the one-bit
sample word of format S. Otherwise bits 7..0 are the command byte, and byte `j` of the frame operand is
the `j`-th byte after it, 0 where `nbits` ends before it. -/
def tablePortWord (c : Config) (nbits w : Nat) : PortWord :=
  if nbits < 8 then .sample (w % 2 == 1)
  else .command
    { cmd := BitVec.ofNat 8 w
      cmdFrame := frameBus
        ((List.range c.msgBytes).map fun j => BitVec.ofNat 8 (w % 2 ^ nbits / 2 ^ (8 * (j + 1)))) }

/-- The operation the decoder reads from a word of the table, on the block as built (log 11). -/
def decodeTableWord (nbits w : Nat) : Option Instr :=
  match decode Config.implementation.config (tablePortWord Config.implementation.config nbits w) with
  | .ok i => some i
  | .error _ => none

end Sys2Proof
end

