-- ==== Sys2Proof/Machine/State.lean ====
section
/-! DEFINITION. The state of PPMD (`10_state.md` R20), its ports (`00_scope.md` R10 to R12) and its state
after reset (R40). -/

namespace Sys2Proof.Machine

/-- The sample memory `mem` (R20, R30): the one-bit cells written since `rst`, as (index, bit) pairs. A
cell that is not listed reads as in `sampleAt` (U7). -/
abbrev Memory := List (Nat × Bit)

/-- The canonical form of a sample memory: indices strictly rising, so that equal memories are equal
lists. -/
abbrev Memory.wf (m : Memory) : Prop := (m.map Prod.fst).Pairwise (· < ·)

/-- `rphase` (R32): where the consumer stands between the two steps of `RB.RESET`. -/
inductive RPhase where
  | idle
  | headCleared
deriving DecidableEq, Repr

/-- Whose step comes next (R60). The schedule is an input, not decided by the block (R36, log 9). -/
inductive Turn where
  /-- `tick` is asserted with `rx_in = b` (R10): the producer's step. -/
  | tick (b : Bit)
  /-- The consumer's next step: the command it presents, or the rest of a command in progress. -/
  | consumer
  /-- `rst` is asserted (R12, log 10). -/
  | rst
deriving DecidableEq, Repr

/-- The response signals of R11 while `rsp_valid` is 1. -/
structure Response where
  /-- `rsp_illegal`. -/
  illegal : Bool
  /-- `rsp_bit`. -/
  bit : Bit
  /-- `rsp_count`, unsigned. -/
  count : Nat
  /-- `rsp_ok`. -/
  ok : Bool
  /-- `rsp_frame`, byte 0 first (on the bus byte 0 is the most significant, R83). -/
  frame : Frame
  /-- `rsp_field0` to `rsp_field5`. -/
  fields : SixFields (BitVec 32)
deriving DecidableEq, Repr

/-- The state. The first eight fields are the whole state the spec gives PPMD (R20); `rsp` is what stands
on the response port (R11); the rest are the model's own. -/
structure State where
  /-- `mem` (R20). -/
  mem : Memory
  /-- `head`, the index of the next cell written (R21). -/
  head : Nat
  /-- `tail`, the index of the next cell read (R21). -/
  tail : Nat
  /-- `rphase` (R32). -/
  rphase : RPhase
  /-- `lvl`, the level of the run in progress (R22). -/
  lvl : Bit
  /-- `run`, its length in samples, saturated (R22). -/
  run : Nat
  /-- `nbits`, the bits decoded into the current candidate frame (R22). -/
  nbits : Nat
  /-- `msg`, the output buffer (R29). -/
  msg : Frame
  /-- The response port: `some` while `rsp_valid` is 1 (R11, log 8). -/
  rsp : Option Response
  /-- The hardwired parameters (R6, R28; log 2). -/
  cfg : Config
  /-- What the precondition of `RB.READ` counts (R116; log 5). -/
  readCredit : Nat
  /-- The turns to come (R36; log 9). -/
  sched : List Turn
  /-- The commands the consumer will present, in order (R36, R187; log 9). -/
  cmds : List Command
  /-- How many responses were given, which numbers the free values of U9 (log 8). -/
  freeCtr : Nat
  /-- How often `rst` was asserted, which numbers the free contents of U7 (log 1). -/
  boots : Nat
deriving DecidableEq, Repr

/-- Why a step stops with a fault. PPMD has no fault mechanism (R190): there is none. -/
inductive Fault where
deriving DecidableEq, Repr

/-- Why the model gives no next state. -/
inductive Refusal where
  /-- An instruction without a meaning yet: raised by `exec` only, safe. -/
  | notModelled (mnemonic : String)
  /-- `RB.READ` with nothing available (R116, U1): neither the bit returned nor whether `tail` advances
  is defined. Raised by `execRbRead`, safe (log 5). -/
  | readNothingAvailable
  /-- A reserved command byte, by its value: the spec has a model give it no meaning (R88, R192, U6).
  Raised by `runCommand`, safe (log 6). -/
  | reservedCommand (cmd : Byte)
deriving DecidableEq, Repr

/-- The state after `rst` of a block with parameters `c` (R40), no input placed. No cell of `mem` is
written, no command is in progress. -/
def State.resetWith (c : Config) : State :=
  { mem := [], head := 0, tail := 0, rphase := .idle,
    lvl := false, run := 0, nbits := 0, msg := List.replicate c.msgBytes 0x00#8,
    rsp := none, cfg := c, readCredit := 0, sched := [], cmds := [], freeCtr := 0, boots := 0 }

/-- The machine right after reset (R40), with the parameters it was built with. -/
def State.reset : State := State.resetWith Config.implementation.config

end Sys2Proof.Machine
end

