-- ==== Sys2Proof/Machine/Ops.lean ====
section
/-! DEFINITION. The shared operations on the sample memory, the indices, the response port and the reset
pin.

PPMD raises no exception and takes no trap: no cause register, no vector, no saved state, no return and
no nesting exist (`60_exceptions.md` R190, R196, R197, R198). So there is no operation here that takes an
exception or returns from one. -/

namespace Sys2Proof.Machine

/-- The bit a sample memory lists for cell `i`, if it lists one. -/
def Memory.lookup : Memory → Nat → Option Bit
  | [], _ => none
  | (a, v) :: m, i => if i = a then some v else Memory.lookup m i

/-- Write bit `b` to cell `i`, keeping the indices strictly rising. -/
def Memory.store : Memory → Nat → Bit → Memory
  | [], i, b => [(i, b)]
  | (a, v) :: m, i, b =>
    if i < a then (i, b) :: (a, v) :: m
    else if i = a then (a, b) :: m
    else (a, v) :: Memory.store m i b

/-- `mem[i]` (R9). A cell not written since `rst` holds an unspecified bit (R40, U7): the free value
`Config.powerUpSample`. -/
def sampleAt (s : State) (i : Nat) : Bit := (Memory.lookup s.mem i).getD (Config.powerUpSample s.boots i)

/-- Was cell `i` written since `rst`? -/
def written (s : State) (i : Nat) : Bool := (Memory.lookup s.mem i).isSome

/-- `(i + 1) mod n` (R120). -/
def indexInc (n i : Nat) : Nat := (i + 1) % n

/-- `(h - t) mod n`, the mathematical residue (R8, R120). -/
def indexDiff (n h t : Nat) : Nat := (((h : Int) - (t : Int)) % (n : Int)).toNat

/-- The producer's write (R110): the cell at `head`, then `head` advances. `tail` is not read (R111). -/
def writeSample (b : Bit) (s : State) : State :=
  { s with mem := Memory.store s.mem s.head b, head := indexInc s.cfg.sampleLen s.head }

/-- The buffered length `(head - tail) mod SAMPLE_LEN` (R21, R26), computed from a snapshot of `head`. -/
def bufferedLength (s : State) : Nat := indexDiff s.cfg.sampleLen s.head s.tail

/-- Is something available to `RB.READ`? The spec words its precondition in two ways: the last
`RB.AVAIL` returned more than the reads since (R116), or `head` differs from `tail` (D21, U1). The model
refuses only where both fail (log 5). -/
def somethingAvailable (s : State) : Bool := decide (0 < s.readCredit) || decide (s.head ≠ s.tail)

/-- What R116 counts after an `RB.AVAIL` that returned `n`. -/
def grantCredit (n : Nat) (s : State) : State := { s with readCredit := n }

/-- What R116 counts after a read. -/
def spendCredit (s : State) : State := { s with readCredit := s.readCredit - 1 }

/-- The consumer's removal of one sample (R116): `tail` advances, the cell keeps its bit (R117). -/
def takeSample (s : State) : State :=
  spendCredit { s with tail := indexInc s.cfg.sampleLen s.tail }

/-- `rsp_count` when nothing drives it (U9), within the bus (R11). -/
def freeCount (c : Config) (k : Nat) : Nat := Config.freeRspCount k % 2 ^ c.countW

/-- `rsp_frame` when nothing drives it (U9). -/
def freeFrame (c : Config) (k : Nat) : Frame := (List.range c.msgBytes).map (Config.freeRspByte k)

/-- `rsp_field<f>` when nothing drives it (U9). -/
def freeFields (k : Nat) : SixFields (BitVec 32) :=
  { rain := Config.freeRspField k 0, temperature := Config.freeRspField k 1,
    windDirection := Config.freeRspField k 2, windAverage := Config.freeRspField k 3,
    windGust := Config.freeRspField k 4, humidity := Config.freeRspField k 5 }

/-- The `k`-th response before a command drives its signals: `rsp_illegal = 0` (R88), everything else
free (R11, U9; log 8). -/
def undriven (c : Config) (k : Nat) : Response :=
  { illegal := false, bit := Config.freeRspBit k, count := freeCount c k, ok := Config.freeRspOk k,
    frame := freeFrame c k, fields := freeFields k }

/-- Present a response, `rsp_valid = 1` (R11); `drive` sets the signals the command drives. -/
def respond (drive : Response → Response) (s : State) : State :=
  { s with rsp := some (drive (undriven s.cfg s.freeCtr)), freeCtr := s.freeCtr + 1 }

/-- The moment after a response: `rsp_valid` returns to 0 (R11, log 8). -/
def quiet (s : State) : State := { s with rsp := none }

/-- A turn of the schedule begins, with `rest` still to come: a response of an earlier step is over. -/
def startTurn (rest : List Turn) (s : State) : State := { s with sched := rest, rsp := none }

/-- The consumer has `ws` still to present. -/
def setCommands (ws : List Command) (s : State) : State := { s with cmds := ws }

/-- The hardware's answer to a reserved command byte (R88): `rsp_illegal = 1`, no operation, no other
change. The model's own step refuses the byte (log 6). -/
def answerIllegal (s : State) : State := respond (fun r => { r with illegal := true }) s

/-- `rst` is asserted (R12, R222): the state of R40, at any moment, nothing surviving (R41). The inputs
to come, the parameters and the numbering of free values are not state of the block (log 10). -/
def assertRst (s : State) : State :=
  { State.resetWith s.cfg with
    sched := s.sched, cmds := s.cmds, freeCtr := s.freeCtr, boots := s.boots + 1 }

end Sys2Proof.Machine
end

