-- ==== Sys2Proof/Machine/Operands.lean ====
section
/-! DEFINITION. Bits of byte buffers (`20_memory.md` R51 to R53), the regions of a frame operand
(`42_frame_decoder.md` R160) and the response data. -/

namespace Sys2Proof.Machine

/-- Where frame bit `k` stands in its byte: bit `7 - (k mod 8)` (R51, R52). -/
def bitPlace (k : Nat) : Nat := 7 - k % 8

/-- `msgbit(k)` or `Fbit(k)` (R51, R52): the bit of byte `k div 8`. A byte that does not exist reads 0
(log 13). -/
def frameBit (F : Frame) (k : Nat) : Bit := (F.getD (k / 8) 0x00#8).getLsbD (bitPlace k)

/-- Byte `B` with bit `p` made `v` exactly (R133). -/
def setByteBit (B : Byte) (p : Nat) (v : Bit) : Byte :=
  if v then B ||| (0x01#8 <<< p) else B &&& ~~~(0x01#8 <<< p)

/-- `msgbit(k) <- v` (R133): no other bit changes. -/
def setFrameBit (F : Frame) (k : Nat) (v : Bit) : Frame :=
  F.set (k / 8) (setByteBit (F.getD (k / 8) 0x00#8) (bitPlace k) v)

/-- A buffer of `MSG_BYTES` zero bytes (R135, R139). -/
def zeroFrame (c : Config) : Frame := List.replicate c.msgBytes 0x00#8

/-- The `MSG_BYTES` bytes of a frame operand (R55, R83); a missing byte is 0 (log 13). -/
def operandBytes (c : Config) (F : Frame) : Frame := (List.range c.msgBytes).map fun j => F.getD j 0x00#8

/-- `F[0 .. DATA_LEN-1]` (R160). -/
def dataRegion (c : Config) (F : Frame) : List Byte := (operandBytes c F).take c.dataLen

/-- `F[DATA_LEN .. MSG_BYTES-1]` (R160). -/
def checksumRegion (c : Config) (F : Frame) : List Byte := (operandBytes c F).drop c.dataLen

/-- The unsigned value of `w` bits from frame bit `off`, the first received the most significant (R53). -/
def rawField (F : Frame) (off w : Nat) : Nat :=
  ((List.range w).map fun i => (frameBit F (off + i)).toNat * 2 ^ (w - 1 - i)).sum

/-- `val_f = raw_f * MUL_f + ADD_f`, exact over the integers (R168). -/
def scaledValue (f : FieldSpec) (raw : Nat) : Int := (raw : Int) * f.mul + f.add

/-- `val_f` as a 32-bit two's-complement integer (R167, R168). -/
def fieldResult (F : Frame) (f : FieldSpec) : BitVec 32 :=
  BitVec.ofInt 32 (scaledValue f (rawField F f.off f.width))

/-- `SUM8`, a test instance of `CHK` (`95_test_vectors.md` section 0; log 3). -/
def sum8 (d : List Byte) : Byte := d.foldl (fun acc B => acc + B) 0x00#8

/-- One bit of `CRC8_31`. -/
def crcShift (r : Byte) : Byte := if r.getLsbD 7 then (r <<< 1) ^^^ 0x31#8 else r <<< 1

/-- One byte of `CRC8_31`: eight shifts. -/
def crcByte (r B : Byte) : Byte :=
  crcShift (crcShift (crcShift (crcShift (crcShift (crcShift (crcShift (crcShift (r ^^^ B))))))))

/-- `CRC8_31`, a test instance of `CHK` (`95_test_vectors.md` section 0; log 3). -/
def crc8x31 (d : List Byte) : Byte := d.foldl crcByte 0x00#8

/-- Byte `i` of the configured checksum (R162). -/
def checksumByte (f : ChkFn) (d : List Byte) (i : Nat) : Byte :=
  match f with
  | .uninterpreted id => Config.uninterpretedChk id d i
  | .sum8 => sum8 d
  | .crc8x31 => crc8x31 d

/-- `CHK`: `CHK_LEN` bytes that depend on the data alone (R162). -/
def checksum (c : Config) (d : List Byte) : List Byte := (List.range c.chkLen).map (checksumByte c.chk d)

/-- Drive `rsp_bit`. -/
def driveBit (b : Bit) (r : Response) : Response := { r with bit := b }

/-- Drive `rsp_count`. -/
def driveCount (n : Nat) (r : Response) : Response := { r with count := n }

/-- Drive `rsp_ok`. -/
def driveOk (b : Bool) (r : Response) : Response := { r with ok := b }

/-- Drive `rsp_frame`. -/
def driveFrame (F : Frame) (r : Response) : Response := { r with frame := F }

/-- Drive `rsp_field0` to `rsp_field5`. -/
def driveFields (v : SixFields (BitVec 32)) (r : Response) : Response := { r with fields := v }

end Sys2Proof.Machine
end

