-- ==== Sys2Proof/Machine/Flags.lean ====
section
/-! DEFINITION. PPMD stores no flags (`10_state.md` R25). What stands here are the values its output ports
show, computed from the state (`00_scope.md` R11, `10_state.md` R26, R27). -/

namespace Sys2Proof.Machine

/-- `frame_ready` (R27). -/
def frameReady (s : State) : Bool := s.nbits == s.cfg.msgBits

/-- `cmd_ready` (R11): 0 while an `RB.RESET` is between its two steps (R32, R232). That it is 1 again in
the very moment the response is presented (`rsp_valid = 1`) is the model's choice: DESIGN CHOICE
(log 18: safe for the state, unsafe for a claim about the two signals in one moment). -/
def cmdReady (s : State) : Bool := s.rphase == .idle

/-- `cmd_valid` (R11): the consumer presents a command. The spec does not say when the consumer asserts
this input. In the model it does so exactly where the next turn is its own and a command is still to come,
and holds it while `cmd_ready` is 0: DESIGN CHOICE, unsafe for a claim about that moment (log 9). -/
def cmdValid (s : State) : Bool :=
  match s.sched with
  | .consumer :: _ => !s.cmds.isEmpty
  | _ => false

/-- `rsp_valid` (R11). -/
def rspValid (s : State) : Bool := s.rsp.isSome

/-- `rsp_illegal` (R11, R88). The spec gives it in a response (R88) and right after `rst` (R40: 0), and is
silent on it at other moments at which `rsp_valid` is 0. That it is 0 then too is the model's choice:
DESIGN CHOICE, unsafe for a claim about such a moment (log 8). -/
def rspIllegal (s : State) : Bool := (s.rsp.map Response.illegal).getD false

/-- The value on the bus `rsp_frame` (R11, R52, R83). -/
def rspFrameBus (s : State) : Option Nat := s.rsp.map fun r => frameBus r.frame

end Sys2Proof.Machine
end

