-- ==== Sys2Proof/Machine/Demodulator.lean ====
section
/-! DEFINITION. The demodulator operations and the pulse-width code (`41_demodulator.md`). -/

namespace Sys2Proof.Machine

/-- What a completed run means (R131). -/
inductive RunMeaning where
  | desync
  | bit (v : Bit)
deriving DecidableEq, Repr

/-- `classify(n)` (R131). -/
def classify (c : Config) (n : Nat) : RunMeaning :=
  if n < c.minSamples ∨ c.maxSamples < n then .desync
  else if n ≤ c.splitSamples then .bit c.shortBit
  else .bit (!c.shortBit)

/-- Bit `v` at frame position `nbits`, then `nbits` grows (R133). -/
def pushBit (v : Bit) (s : State) : State :=
  { s with msg := setFrameBit s.msg s.nbits v, nbits := s.nbits + 1 }

/-- A classified bit (R133), dropped when the buffer is full (R134). -/
def storeBit (v : Bit) (s : State) : State :=
  if s.nbits < s.cfg.msgBits then pushBit v s else s

/-- The bit accumulator is cleared (R135, R139). -/
def clearBits (s : State) : State := { s with nbits := 0, msg := zeroFrame s.cfg }

/-- The action on a classified run (R130). -/
def applyMeaning (m : RunMeaning) (s : State) : State :=
  match m with
  | .bit v => storeBit v s
  | .desync => clearBits s

/-- The run `(lvl, run)` is complete: it is classified when its level is a pulse level (R132). -/
def completeRun (s : State) : State :=
  if s.cfg.pulseLevel s.lvl then applyMeaning (classify s.cfg s.run) s else s

/-- The run goes on (R136): the counter saturates. -/
def continueRun (s : State) : State := { s with run := min (s.run + 1) (s.cfg.maxSamples + 1) }

/-- The new run starts with this sample (R130). -/
def startRun (b : Bit) (s : State) : State := { s with lvl := b, run := 1 }

/-- One sample (R130). -/
def takeLevel (b : Bit) (s : State) : State :=
  if b = s.lvl then continueRun s else startRun b (completeRun s)

/-- The demodulator's state after `DM.RESET` (R139). -/
def clearDemod (s : State) : State := { clearBits s with lvl := false, run := 0 }

/-- `DM.PROC b` (R130). -/
def execDmProc (b : Bit) (s : State) : Host.Outcome State Fault Refusal := .next (respond id (takeLevel b s))

/-- `DM.RXLEN` (R137). -/
def execDmRxlen (s : State) : Host.Outcome State Fault Refusal := .next (respond (driveCount s.nbits) s)

/-- `DM.GETMSG` (R138): nothing is cleared. -/
def execDmGetmsg (s : State) : Host.Outcome State Fault Refusal := .next (respond (driveFrame s.msg) s)

/-- `DM.RESET` (R139). -/
def execDmReset (s : State) : Host.Outcome State Fault Refusal := .next (respond id (clearDemod s))

end Sys2Proof.Machine
end

