-- ==== Sys2Proof/Machine/FrameDecoder.lean ====
section
/-! DEFINITION. The frame decoder operations (`42_frame_decoder.md`): functions of the frame operand and
the configuration, with no state. -/

namespace Sys2Proof.Machine

/-- Is the checksum region the checksum of the data region (R164)? -/
def frameValid (c : Config) (F : Frame) : Bool := checksum c (dataRegion c F) == checksumRegion c F

/-- The six scaled values (R167). -/
def sensorReading (c : Config) (F : Frame) : SixFields (BitVec 32) :=
  c.fields.map (fieldResult (operandBytes c F))

/-- The six values of an invalid frame (R170). -/
def noReading : SixFields (BitVec 32) :=
  { rain := 0, temperature := 0, windDirection := 0, windAverage := 0, windGust := 0, humidity := 0 }

/-- The values that leave FD in the mode `validate+decode` (R170): none of an invalid frame (R161). -/
def validatedReading (c : Config) (F : Frame) : SixFields (BitVec 32) :=
  if frameValid c F then sensorReading c F else noReading

/-- `FD.VALIDATE F` (R164). -/
def execFdValidate (F : Frame) (s : State) : Host.Outcome State Fault Refusal :=
  .next (respond (driveOk (frameValid s.cfg F)) s)

/-- `FD.DECODE F` (R167): total, no check of its own. -/
def execFdDecode (F : Frame) (s : State) : Host.Outcome State Fault Refusal :=
  .next (respond (driveFields (sensorReading s.cfg F)) s)

/-- `FD.VDEC F` (R170). -/
def execFdVdec (F : Frame) (s : State) : Host.Outcome State Fault Refusal :=
  .next (respond (fun r => driveFields (validatedReading s.cfg F) (driveOk (frameValid s.cfg F) r)) s)

/-- `FD.RAW F` (R171): every byte unchanged. -/
def execFdRaw (F : Frame) (s : State) : Host.Outcome State Fault Refusal :=
  .next (respond (driveFrame (operandBytes s.cfg F)) s)

end Sys2Proof.Machine
end

