-- ==== Sys2Proof/Machine/RingBuffer.lean ====
section
/-! DEFINITION. The ring buffer operations (`40_ring_buffer.md`). -/

namespace Sys2Proof.Machine

/-- `RB.WRITE b` (R110, R111): cannot fail, gives no response. -/
def execRbWrite (b : Bit) (s : State) : Host.Outcome State Fault Refusal := .next (writeSample b s)

/-- `RB.AVAIL` (R113): the snapshot of `head` and the subtraction are one step (R33). -/
def execRbAvail (s : State) : Host.Outcome State Fault Refusal :=
  .next (respond (driveCount (bufferedLength s)) (grantCredit (bufferedLength s) s))

/-- `RB.READ` (R116, R117). -/
def execRbRead (s : State) : Host.Outcome State Fault Refusal :=
  if somethingAvailable s then .next (respond (driveBit (sampleAt s s.tail)) (takeSample s))
  else .refused .readNothingAvailable

/-- Step 1 of `RB.RESET` (R118): `head <- 0` in the critical section. No response yet (R232). -/
def resetHead (s : State) : State := { s with head := 0, rphase := .headCleared, readCredit := 0 }

/-- Step 2 of `RB.RESET` (R118). `mem` is not cleared. -/
def resetTail (s : State) : State := { s with tail := 0, rphase := .idle, readCredit := 0 }

/-- `RB.RESET` (R118): its next step, which `rphase` tells (R32). -/
def execRbReset (s : State) : Host.Outcome State Fault Refusal :=
  match s.rphase with
  | .idle => .next (resetHead s)
  | .headCleared => .next (respond id (resetTail s))

end Sys2Proof.Machine
end

