-- ==== Sys2Proof/Machine/Dispatch.lean ====
section
/-! DEFINITION. One arm per operation (`30_encoding.md` R84), each one call of its meaning. -/

namespace Sys2Proof.Machine

/-- The meaning of an operation (R84). -/
def exec (i : Instr) (s : State) : Host.Outcome State Fault Refusal :=
  match i with
  | .rbWrite b => Sys2Proof.Machine.execRbWrite b s
  | .rbAvail => Sys2Proof.Machine.execRbAvail s
  | .rbRead => Sys2Proof.Machine.execRbRead s
  | .rbReset => Sys2Proof.Machine.execRbReset s
  | .dmProc b => Sys2Proof.Machine.execDmProc b s
  | .dmRxlen => Sys2Proof.Machine.execDmRxlen s
  | .dmGetmsg => Sys2Proof.Machine.execDmGetmsg s
  | .dmReset => Sys2Proof.Machine.execDmReset s
  | .fdValidate F => Sys2Proof.Machine.execFdValidate F s
  | .fdDecode F => Sys2Proof.Machine.execFdDecode F s
  | .fdVdec F => Sys2Proof.Machine.execFdVdec F s
  | .fdRaw F => Sys2Proof.Machine.execFdRaw F s

end Sys2Proof.Machine
end

