-- ==== Sys2Proof/Machine/Agents.lean ====
section
/-! DEFINITION. The turns of the two agents and of the reset pin (`20_memory.md` R60 to R62), and how the
consumer's next command is fetched from the command port (`00_scope.md` R11). -/

namespace Sys2Proof.Machine

/-- The producer's turn (R10, R60): one `RB.WRITE` of the level on `rx_in`. -/
def producerTurn (b : Bit) (s : State) : Host.Outcome State Fault Refusal := exec (decodeSample b) s

/-- An accepted command (R11): the operation it decodes to. A reserved byte is refused, as R88, R192 and
U6 say of a model. -/
def runCommand (w : Command) (s : State) : Host.Outcome State Fault Refusal :=
  match decodeCommand s.cfg w with
  | .ok i => exec i s
  | .error (.reserved b) => .refused (.reservedCommand b)

/-- The consumer presents its next command (R11), if it has one. -/
def acceptCommand (s : State) : Host.Outcome State Fault Refusal :=
  match s.cmds with
  | [] => .next s
  | w :: rest => runCommand w (setCommands rest s)

/-- The consumer's turn (R60). Between the two steps of `RB.RESET` its only enabled step is the second
one (R32); otherwise `cmd_ready` is 1. -/
def consumerTurn (s : State) : Host.Outcome State Fault Refusal :=
  match s.rphase with
  | .headCleared => exec .rbReset s
  | .idle => acceptCommand s

/-- One turn (R60). -/
def takeTurn (t : Turn) (s : State) : Host.Outcome State Fault Refusal :=
  match t with
  | .tick b => producerTurn b s
  | .consumer => consumerTurn s
  | .rst => .next (assertRst s)

/-- The next turn of the schedule. With no turn to come nothing is asserted on any port, and nothing
changes but that a response, shown for one moment, is over (R11, log 9). -/
def nextTurn (s : State) : Host.Outcome State Fault Refusal :=
  match s.sched with
  | [] => .next (quiet s)
  | t :: rest => takeTurn t (startTurn rest s)

/-- The same turn in the hardware rendering of R88, on which no run of the model relies (P7; log 6): a
reserved byte that is accepted performs no operation, changes nothing, and is answered with
`rsp_illegal = 1`. Everything else is as in the model. -/
def hardwareTurn (s : State) : Host.Outcome State Fault Refusal :=
  match nextTurn s with
  | .next t => .next t
  | .fault r => .fault r
  | .refused (.reservedCommand _) =>
    .next (answerIllegal (setCommands s.cmds.tail (startTurn s.sched.tail s)))
  | .refused r => .refused r

/-- Place a word of a port so that it is what the next step runs (log 11). -/
def placeWord (w : PortWord) (s : State) : State :=
  match w with
  | .sample b => { s with sched := .tick b :: s.sched }
  | .command k => { s with sched := .consumer :: s.sched, cmds := k :: s.cmds, rphase := .idle }

end Sys2Proof.Machine
end

