-- ==== Sys2Proof/Machine/Step.lean ====
section
/-! DEFINITION. One step of the machine, and placing the next operation on a port. -/

namespace Sys2Proof.Machine

/-- One atomic step (`20_memory.md` R60). -/
def step (s : State) : Host.Outcome State Fault Refusal := nextTurn s

/-- `s` with a word of `spec/opcode_table.json` placed on its port, so that the next step runs it
(log 11). -/
def State.withFetchWord (s : State) (nbits w : Nat) : State := placeWord (tablePortWord s.cfg nbits w) s

end Sys2Proof.Machine
end

