-- ==== Sys2Proof/Machine/Composite.lean ====
section
/-! DEFINITION. The pseudo-operations (`43_composite_ops.md` R180 to R186), as functions over the machine.
The consumer performs them outside the block (R180, R187; log 17): each command is a separate step, and
the producer may write any samples between two of them. -/

namespace Sys2Proof.Machine

/-- Go on with the next state; stop where the machine stops. -/
def andThen {α β : Type} (o : Host.Outcome α Fault Refusal) (k : α → Host.Outcome β Fault Refusal) :
    Host.Outcome β Fault Refusal :=
  match o with
  | .next a => k a
  | .fault r => .fault r
  | .refused r => .refused r

/-- Several operations, one after another. -/
def execAll : List Instr → State → Host.Outcome State Fault Refusal
  | [], s => .next s
  | i :: rest, s => andThen (exec i s) (execAll rest)

/-- `FEEDRUN v, n` (R185). -/
def feedRun (v : Bit) (n : Nat) (s : State) : Host.Outcome State Fault Refusal :=
  execAll (List.replicate n (.dmProc v)) s

/-- The producer writes these samples, in order. -/
def writeAll (bs : List Bit) (s : State) : Host.Outcome State Fault Refusal :=
  execAll (bs.map fun b => .rbWrite b) s

/-- `SAMPLERUN v, n` (R185). -/
def sampleRun (v : Bit) (n : Nat) (s : State) : Host.Outcome State Fault Refusal :=
  writeAll (List.replicate n v) s

/-- Where a pass of the consumer stands: the machine, and the samples the producer will write before each
of the consumer's further steps (none once the list is used up). -/
structure Pass where
  machine : State
  gaps : List (List Bit)
deriving DecidableEq, Repr

/-- One consumer step of a pass: first the producer's samples, then the operation (R180). -/
def passStep (i : Instr) (p : Pass) : Host.Outcome Pass Fault Refusal :=
  andThen (writeAll (p.gaps.headD []) p.machine) fun s =>
    andThen (exec i (quiet s)) fun t => .next { machine := t, gaps := p.gaps.tail }

/-- The count on the response port (R11). -/
def shownCount (s : State) : Nat := (s.rsp.map Response.count).getD 0

/-- The bit on the response port (R11). -/
def shownBit (s : State) : Bit := (s.rsp.map Response.bit).getD false

/-- The frame on the response port (R11). -/
def shownFrame (s : State) : Frame := (s.rsp.map Response.frame).getD []

/-- Both steps of `RB.RESET` (R118). -/
def passRingReset (p : Pass) : Host.Outcome Pass Fault Refusal :=
  andThen (passStep .rbReset p) (passStep .rbReset)

/-- `PIPE.RESET` (R181). -/
def pipeReset (p : Pass) : Host.Outcome Pass Fault Refusal :=
  andThen (passRingReset p) (passStep .dmReset)

/-- The completion test of R182 and what follows it: the frame taken, if the bit count is `MSG_BITS`. -/
def collectFrame (p : Pass) : Host.Outcome (Pass × List Frame) Fault Refusal :=
  if shownCount p.machine = p.machine.cfg.msgBits then
    andThen (passStep .dmGetmsg p) fun q =>
      andThen (passStep .dmReset q) fun r => .next (r, [shownFrame q.machine])
  else .next (p, [])

/-- One turn of the loop of R182. -/
def drainOne (p : Pass) : Host.Outcome (Pass × List Frame) Fault Refusal :=
  andThen (passStep .rbRead p) fun q =>
    andThen (passStep (.dmProc (shownBit q.machine)) q) fun r =>
      andThen (passStep .dmRxlen r) collectFrame

/-- "repeat n times" of R182; the frames in the order they were completed. -/
def drain : Nat → Pass → Host.Outcome (Pass × List Frame) Fault Refusal
  | 0, p => .next (p, [])
  | n + 1, p =>
    andThen (drainOne p) fun q =>
      andThen (drain n q.1) fun r => .next (r.1, q.2 ++ r.2)

/-- What `SERVICE` returns (R182), and where the machine then stands. -/
structure ServiceResult where
  pass : Pass
  frames : List Frame
  discarded : Bool
deriving DecidableEq, Repr

/-- The discard of R182: `RB.RESET`, and `DM.RESET` by the policy `OVF_RESETS_DEMOD`. -/
def discardBacklog (p : Pass) : Host.Outcome Pass Fault Refusal :=
  if p.machine.cfg.ovfResetsDemod then pipeReset p else passRingReset p

/-- The backlog test (R183): strictly more than half of the capacity. -/
def isBacklog (c : Config) (n : Nat) : Bool := decide (c.sampleLen < 2 * n)

/-- `SERVICE`, one drain pass (R182). -/
def service (p : Pass) : Host.Outcome ServiceResult Fault Refusal :=
  andThen (passStep .rbAvail p) fun q =>
    if isBacklog q.machine.cfg (shownCount q.machine) then
      andThen (discardBacklog q) fun r => .next { pass := r, frames := [], discarded := true }
    else
      andThen (drain (shownCount q.machine) q) fun r =>
        .next { pass := r.1, frames := r.2, discarded := false }

end Sys2Proof.Machine
end

