-- ==== Sys2Proof/Safety.lean ====
section
/-! DEFINITION. The terms statements are made in: the invariants of `10_state.md` R35, what an operation
leaves alone, the FIFO law of `20_memory.md` R63, and the property CHK_BITFLIP of `42_frame_decoder.md`
R163. -/

namespace Sys2Proof.Machine

/-! ## Invariants -/

/-- The response stays within its buses (R11). -/
def responseFits (c : Config) (r : Response) : Bool :=
  decide (r.count < 2 ^ c.countW) && decide (r.frame.length = c.msgBytes)

/-- The invariants of R35, with the canonical form of the sample memory and the ranges of the model's own
fields. A state that violates one is not a PPMD state (R35). -/
structure State.Inv (s : State) : Prop where
  /-- The configuration is admitted (R7). -/
  config : s.cfg.admitted = true
  /-- R35 (i). -/
  head_lt : s.head < s.cfg.sampleLen
  /-- R35 (i). -/
  tail_lt : s.tail < s.cfg.sampleLen
  /-- R35 (ii). -/
  nbits_le : s.nbits ≤ s.cfg.msgBits
  /-- R35 (iii). -/
  run_le : s.run ≤ s.cfg.maxSamples + 1
  /-- R35 (iii): a run of length 0 is that of a demodulator just reset. -/
  run_zero : s.run = 0 → s.lvl = false ∧ s.nbits = 0
  /-- R29: the output buffer has `MSG_BYTES` bytes. -/
  msg_length : s.msg.length = s.cfg.msgBytes
  /-- R35 (iv). -/
  msg_rest : ∀ k, k < s.cfg.msgBits → s.nbits ≤ k → frameBit s.msg k = false
  /-- The sample memory is in canonical form. -/
  mem_wf : Memory.wf s.mem
  /-- Only the cells `0 .. SAMPLE_LEN-1` exist (R30). -/
  mem_inside : ∀ a ∈ s.mem.map Prod.fst, a < s.cfg.sampleLen
  /-- `RB.AVAIL` never returns more than `SAMPLE_LEN - 1` (R113). -/
  credit_lt : s.readCredit < s.cfg.sampleLen
  /-- R116: a reset leaves no count. -/
  credit_reset : s.rphase = .headCleared → s.readCredit = 0
  /-- What stands on the response port fits it (R11). -/
  rsp_fits : (s.rsp.map (responseFits s.cfg)).getD true = true

/-- Every cell was written since `rst`. -/
def allWritten (s : State) : Prop := ∀ i, i < s.cfg.sampleLen → written s i = true

/-- No cell that can be read is one that was never written (R40, U7): the cells below `head` were written;
if `tail` is past `head`, or the count of the last `RB.AVAIL` reaches past it, the producer has wrapped
around and written all. -/
structure State.ReadsWritten (s : State) : Prop where
  below_head : ∀ i, i < s.head → written s i = true
  behind_tail : s.rphase = .idle → s.tail ≤ s.head ∨ allWritten s
  credited : 0 < s.readCredit → s.tail + s.readCredit ≤ s.head ∨ allWritten s

/-! ## What an operation leaves alone -/

/-- The ring buffer is the same (R20): every cell, both indices, the phase, and the count the consumer
holds. -/
def State.sameRing (s t : State) : Prop :=
  (∀ a, sampleAt t a = sampleAt s a) ∧ t.mem = s.mem ∧ t.head = s.head ∧ t.tail = s.tail ∧
    t.rphase = s.rphase ∧ t.readCredit = s.readCredit

/-- The demodulator is the same (R20). -/
def State.sameDemod (s t : State) : Prop :=
  t.lvl = s.lvl ∧ t.run = s.run ∧ t.nbits = s.nbits ∧ t.msg = s.msg

/-- The parameters and the inputs to come are the same, and no `rst` came. -/
def State.sameEnvironment (s t : State) : Prop :=
  t.cfg = s.cfg ∧ t.sched = s.sched ∧ t.cmds = s.cmds ∧ t.boots = s.boots

/-- A response stands on the port, `rsp_valid = 1` and `rsp_illegal = 0` (R88), and `shows` holds of it. -/
def State.answers (t : State) (shows : Response → Prop) : Prop :=
  ∃ r, t.rsp = some r ∧ r.illegal = false ∧ shows r

/-! ## The FIFO law (R63) -/

/-- The ring buffer holds the unread samples `q`, oldest first, and has not overflowed: in the terms of
R63, `q` are the bits written but not yet read, and `W - Rd = q.length < SAMPLE_LEN`. -/
structure State.Holds (s : State) (q : List Bit) : Prop where
  at_rest : s.rphase = .idle
  below_capacity : q.length < s.cfg.sampleLen
  count : bufferedLength s = q.length
  samples : ∀ j, j < q.length → some (sampleAt s ((s.tail + j) % s.cfg.sampleLen)) = q[j]?

/-- The ring buffer operations of R63. -/
inductive FifoOp where
  | write (b : Bit)
  | avail
  | read
deriving DecidableEq, Repr

/-- The operation of PPMD that a FIFO operation stands for. -/
def FifoOp.instr : FifoOp → Instr
  | .write b => .rbWrite b
  | .avail => .rbAvail
  | .read => .rbRead

/-- What the consumer sees of one operation. -/
inductive FifoOut where
  | count (n : Nat)
  | bit (b : Bit)
deriving DecidableEq, Repr

/-- A queue of capacity below `cap` (R63), as the ideal the ring buffer is measured by: `none` where the
unread count would reach `cap`, or a read finds nothing. -/
def idealFifo (cap : Nat) : List FifoOp → List Bit → Option (List Bit × List FifoOut)
  | [], q => some (q, [])
  | .write b :: ops, q =>
    if q.length + 1 < cap then idealFifo cap ops (q ++ [b]) else none
  | .avail :: ops, q => (idealFifo cap ops q).map fun r => (r.1, .count q.length :: r.2)
  | .read :: ops, x :: q => (idealFifo cap ops q).map fun r => (r.1, .bit x :: r.2)
  | .read :: _, [] => none

/-- What one operation shows on the response port. -/
def fifoShown (op : FifoOp) (s : State) : List FifoOut :=
  match op with
  | .write _ => []
  | .avail => [.count (shownCount s)]
  | .read => [.bit (shownBit s)]

/-- The same operations on the machine, with what they show. -/
def machineFifo : List FifoOp → State → Host.Outcome (State × List FifoOut) Fault Refusal
  | [], s => .next (s, [])
  | op :: ops, s =>
    andThen (exec op.instr s) fun t =>
      andThen (machineFifo ops t) fun r => .next (r.1, fifoShown op t ++ r.2)

/-! ## The demodulator's input as runs (R131, R144) -/

/-- A run: its level and its length in samples. -/
abbrev Run := Bit × Nat

/-- The samples of a sequence of runs. -/
def samplesOf (rs : List Run) : List Bit := (rs.map fun r => List.replicate r.2 r.1).flatten

/-- Neighbouring runs have different levels and no run is empty: the runs are maximal (glossary, Run). -/
def maximalRuns (rs : List Run) : Prop :=
  (∀ r ∈ rs, 1 ≤ r.2) ∧ rs.IsChain (fun a b => b.1 = !a.1)

/-- The bits of the runs that are classified (R131, R132), in order; a desync gives none. -/
def bitsOf (c : Config) (rs : List Run) : List Bit :=
  rs.filterMap fun r =>
    if c.pulseLevel r.1 then
      match classify c r.2 with
      | .bit v => some v
      | .desync => none
    else none

/-- No classified run is out of bounds (R131, R132). -/
def noDesync (c : Config) (rs : List Run) : Prop :=
  ∀ r ∈ rs, c.pulseLevel r.1 = true → classify c r.2 ≠ .desync

/-- Frames decoded from a sequence of samples by a consumer that takes each completed frame at once
(R229): the demodulator alone, without the ring buffer. -/
def framesOf : List Bit → State → State × List Frame
  | [], s => (s, [])
  | b :: bs, s =>
    if (takeLevel b s).nbits = s.cfg.msgBits then
      ((framesOf bs (clearDemod (takeLevel b s))).1,
        (takeLevel b s).msg :: (framesOf bs (clearDemod (takeLevel b s))).2)
    else framesOf bs (takeLevel b s)

/-- The consumer's steps in the drain loop of R182, by the samples it reads and the demodulator it starts
from: each sample is read, processed and followed by the completion test, and a completed frame is taken
at once. -/
def drainSteps : List Bit → State → List Instr
  | [], _ => []
  | b :: bs, s =>
    if (takeLevel b s).nbits = s.cfg.msgBits then
      [.rbRead, .dmProc b, .dmRxlen, .dmGetmsg, .dmReset] ++ drainSteps bs (clearDemod (takeLevel b s))
    else [.rbRead, .dmProc b, .dmRxlen] ++ drainSteps bs (takeLevel b s)

/-- Does the buffer never overflow while the consumer takes these steps? `unread` is `W - Rd` (R36 (e))
before the first of them, `gaps` are the samples written before each step, and after each of these writes
the unread count is below the capacity (the premise of R63). -/
def keepsUp (cap : Nat) : Nat → List (List Bit) → List Instr → Bool
  | _, _, [] => true
  | unread, gaps, i :: is =>
    decide (unread + (gaps.headD []).length < cap) &&
      keepsUp cap (unread + (gaps.headD []).length - (if i = .rbRead then 1 else 0)) gaps.tail is

/-! ## The checksum property (R163) -/

/-- Byte list `d` with bit `k` flipped, numbered as in R52. -/
def flipBit (d : List Byte) (k : Nat) : List Byte := setFrameBit d k (!frameBit d k)

/-- CHK_BITFLIP (R163): flipping one data bit changes the checksum. -/
def ChkBitflip (c : Config) : Prop :=
  ∀ d k, d.length = c.dataLen → k < 8 * c.dataLen → checksum c (flipBit d k) ≠ checksum c d

end Sys2Proof.Machine
end

