-- ==== Sys2Proof/Certificates/Slice0/Obligations.lean ====
section
/-! DEFINITION. The statements for the provers. Each docstring names the rules it comes from; where a
clause rests on a choice of the model it says so and names the log entry. -/

section
open Sys2Proof Sys2Proof.Machine

/-! ## Reset -/

/-- R40, R220: what `rst` leaves, for every admitted configuration and so for the block as built. No cell
of the sample memory is written (its contents are free, U7). -/
def Obligations.ResetStateAsSpecified : Prop :=
  (∀ c : Config, c.admitted = true →
    ∃ s, s = State.resetWith c ∧ s.head = 0 ∧ s.tail = 0 ∧ s.rphase = .idle ∧ s.lvl = false ∧
      s.run = 0 ∧ s.nbits = 0 ∧ s.msg = List.replicate c.msgBytes 0x00#8 ∧
      cmdReady s = true ∧ rspValid s = false ∧ rspIllegal s = false ∧ frameReady s = false ∧
      ∀ i, written s i = false) ∧
  Config.implementation.config.admitted = true ∧
  State.reset = State.resetWith Config.implementation.config

/-- R222, R40, R41 and D25: `rst` at any moment, in the middle of a frame or of an `RB.RESET`, leaves the
registers of R40. That `rst` is a step of its own, and that the inputs to come survive it, is the model's
choice (log 10). -/
def Obligations.RstAtAnyMomentRestoresReset : Prop :=
  ∀ (s : State) (rest : List Turn), s.sched = .rst :: rest →
    ∃ t, step s = .next t ∧ t.head = 0 ∧ t.tail = 0 ∧ t.rphase = .idle ∧ t.lvl = false ∧ t.run = 0 ∧
      t.nbits = 0 ∧ t.msg = List.replicate s.cfg.msgBytes 0x00#8 ∧ (∀ i, written t i = false) ∧
      t.rsp = none ∧ t.readCredit = 0 ∧ t.cfg = s.cfg ∧ t.sched = rest ∧ t.cmds = s.cmds

/-! ## Encoding -/

/-- R86 with the table of R85 and the list of R88: a command byte is legal exactly when one row of the
table matches it, then exactly one does; every other byte is reserved, and `RB.WRITE` has no command
byte. -/
def Obligations.LegalCommandBytesAreTwelve : Prop :=
  ∃ rows : List (Byte × Byte),
    rows = [(0x00#8, 0xFF#8), (0x10#8, 0xFF#8), (0x20#8, 0xFF#8), (0x40#8, 0xFE#8), (0x50#8, 0xFF#8),
      (0x60#8, 0xFF#8), (0x70#8, 0xFF#8), (0x80#8, 0xFF#8), (0x90#8, 0xFF#8), (0xA0#8, 0xFF#8),
      (0xB0#8, 0xFF#8)] ∧
    ∀ (c : Config) (w : Command),
      ((∃ i, decodeCommand c w = .ok i) ↔
        w.cmd ∈ [0x00#8, 0x10#8, 0x20#8, 0x40#8, 0x41#8, 0x50#8, 0x60#8, 0x70#8, 0x80#8, 0x90#8,
          0xA0#8, 0xB0#8]) ∧
      (w.cmd ∉ [0x00#8, 0x10#8, 0x20#8, 0x40#8, 0x41#8, 0x50#8, 0x60#8, 0x70#8, 0x80#8, 0x90#8,
          0xA0#8, 0xB0#8] → decodeCommand c w = .error (.reserved w.cmd)) ∧
      (rows.filter fun r => w.cmd &&& r.2 == r.1).length =
        (if w.cmd ∈ [0x00#8, 0x10#8, 0x20#8, 0x40#8, 0x41#8, 0x50#8, 0x60#8, 0x70#8, 0x80#8, 0x90#8,
          0xA0#8, 0xB0#8] then 1 else 0) ∧
      ∀ b, decodeCommand c w ≠ .ok (.rbWrite b)

/-- R85, R82, R83: some words written out from the table decode to the operations they stand for. -/
def Obligations.WrittenWordsDecode : Prop :=
  ∀ (c : Config) (bus : Nat),
    decode c (.sample true) = .ok (.rbWrite true) ∧ decode c (.sample false) = .ok (.rbWrite false) ∧
    decode c (.command ⟨0b00000000#8, bus⟩) = .ok .rbAvail ∧
    decode c (.command ⟨0b00100000#8, bus⟩) = .ok .rbReset ∧
    decode c (.command ⟨0b01000001#8, bus⟩) = .ok (.dmProc true) ∧
    decode c (.command ⟨0b01100000#8, bus⟩) = .ok .dmGetmsg ∧
    decode c (.command ⟨0b10010000#8, bus⟩) = .ok (.fdDecode (busFrame c bus)) ∧
    decode c (.command ⟨0b01000010#8, bus⟩) = .error (.reserved 0x42#8)

/-- R81 to R86: decoding the word of a well-formed operation gives it back, with every operand. -/
def Obligations.DecodeEncodeRoundTrip : Prop :=
  ∀ (c : Config) (i : Instr), i.wellFormed c = true → decode c (encode i) = .ok i

/-- R81, R83, R86: a command that decodes gives a well-formed operation, whose word has the same command
byte and, for an FD command, the same value on `cmd_frame`: no two commands mean the same. -/
def Obligations.EncodeDecodeRoundTrip : Prop :=
  ∀ (c : Config) (w : Command) (i : Instr), w.wellFormed c = true → decodeCommand c w = .ok i →
    i.wellFormed c = true ∧
    ∃ v, encode i = .command v ∧ v.cmd = w.cmd ∧ (0x80 ≤ w.cmd.toNat → v.cmdFrame = w.cmdFrame)

/-- R52, R83: frame bit `k` is bus bit `MSG_BITS - 1 - k`. -/
def Obligations.FrameBitsOnTheBus : Prop :=
  ∀ (F : Frame) (k : Nat), k < 8 * F.length →
    (frameBus F).testBit (8 * F.length - 1 - k) = frameBit F k

/-! ## The step -/

/-- R10, R11, R24, R60, R62: a step is the next turn of the schedule. A tick runs `RB.WRITE`; the consumer
runs the operation its next command decodes to, or, between the two steps of `RB.RESET`, the second of
them and nothing else (R32). With no turn, or no command, nothing else changes. The schedule and the list of
commands are the model's own (log 9). That a response of an earlier step is over at the next step,
whichever agent takes it, so that `rsp` becomes `none` in every clause, is the model's choice (log 8): the
spec does not time the end of a response. -/
def Obligations.StepRunsDecodedInstruction : Prop :=
  (∀ (s : State) b rest, s.sched = .tick b :: rest →
    step s = exec (.rbWrite b) { s with sched := rest, rsp := none }) ∧
  (∀ (s : State) rest w ws i, s.sched = .consumer :: rest → s.rphase = .idle → s.cmds = w :: ws →
    decodeCommand s.cfg w = .ok i →
    step s = exec i { s with sched := rest, cmds := ws, rsp := none }) ∧
  (∀ (s : State) rest, s.sched = .consumer :: rest → s.rphase = .headCleared →
    step s = exec .rbReset { s with sched := rest, rsp := none }) ∧
  (∀ (s : State) rest, s.sched = .consumer :: rest → s.rphase = .idle → s.cmds = [] →
    step s = .next { s with sched := rest, rsp := none }) ∧
  (∀ s : State, s.sched = [] → step s = .next { s with rsp := none })

/-- R88, in the hardware rendering of a turn: a reserved command byte that is accepted changes no state of
PPMD, performs no operation, and is answered with `rsp_valid = 1`, `rsp_illegal = 1`. The model's own step
refuses it (ReservedByteRefused); that the rendering stands beside the step is the model's choice
(log 6). -/
def Obligations.ReservedByteAnsweredIllegal : Prop :=
  ∀ (s : State) rest w ws e, s.sched = .consumer :: rest → s.rphase = .idle → s.cmds = w :: ws →
    decodeCommand s.cfg w = .error e →
    ∃ t, hardwareTurn s = .next t ∧ s.sameRing t ∧ s.sameDemod t ∧ rspValid t = true ∧
      rspIllegal t = true ∧ t.cfg = s.cfg ∧ t.sched = rest ∧ t.cmds = ws ∧ t.boots = s.boots

/-- R190, R192: no step faults (PPMD has no fault, so the type of faults is empty), and a step is refused
exactly where the consumer's command is `RB.READ` with nothing available (U1; which wording of its
precondition counts is the model's choice, log 5) or a reserved byte (R88, U6). -/
def Obligations.StepStopsOnlyOnEmptyReadOrReservedByte : Prop :=
  (∀ s f, step s ≠ .fault f) ∧
  ∀ s r, step s = .refused r ↔
    ∃ rest w ws, s.sched = .consumer :: rest ∧ s.rphase = .idle ∧ s.cmds = w :: ws ∧
      ((r = .readNothingAvailable ∧ decodeCommand s.cfg w = .ok .rbRead ∧ s.head = s.tail ∧
          s.readCredit = 0) ∨
        (r = .reservedCommand w.cmd ∧ decodeCommand s.cfg w = .error (.reserved w.cmd)))

/-! ## Invariants -/

/-- R35 at reset (R40), for every admitted configuration and for the block as built. -/
def Obligations.InvariantsHoldAtReset : Prop :=
  (∀ c : Config, c.admitted = true → (State.resetWith c).Inv) ∧ State.reset.Inv

/-- R35 (i) to (iv): every step keeps the invariants, with the canonical form of the sample memory, the
widths of the response port (R11, D28) and the ranges of the model's own fields. -/
def Obligations.EveryStepKeepsInvariants : Prop :=
  ∀ s t : State, s.Inv → step s = .next t → t.Inv

/-- R40, U7: right after reset no readable cell is unwritten (there is none to read). -/
def Obligations.ReadsWrittenAtReset : Prop :=
  ∀ c : Config, (State.resetWith c).ReadsWritten

/-- R40, U7: every step keeps it that no cell that can be read is one that was never written. What can be
read follows the model's reading of the precondition of `RB.READ` (log 5). -/
def Obligations.EveryStepKeepsReadsWritten : Prop :=
  ∀ s t : State, s.Inv → s.ReadsWritten → step s = .next t → t.ReadsWritten

/-- R40, U7: no legal read observes the unspecified contents of the sample memory after `rst`. Which reads
are legal is the model's reading of R116 and D21 (log 5). -/
def Obligations.NoReadSeesPowerUpContents : Prop :=
  ∀ s t : State, s.Inv → s.ReadsWritten → s.rphase = .idle → exec .rbRead s = .next t →
    written s s.tail = true

/-! ## The ring buffer -/

/-- R110: `RB.WRITE b` stores `b` at `head` and advances `head`; nothing else changes, nothing is returned,
and it cannot fail. Its word is the sample word; the command port has no word for it. -/
def Obligations.RbWriteStoresAndAdvances : Prop :=
  (∀ c b, decode c (.sample b) = .ok (.rbWrite b)) ∧
  (∀ c w b, decode c (.command w) ≠ .ok (.rbWrite b)) ∧
  ∀ (b : Bit) (s : State), ∃ t, exec (.rbWrite b) s = .next t ∧
    sampleAt t s.head = b ∧ (∀ a, a ≠ s.head → sampleAt t a = sampleAt s a) ∧
    t.head = (s.head + 1) % s.cfg.sampleLen ∧ t.tail = s.tail ∧ t.rphase = s.rphase ∧
    t.readCredit = s.readCredit ∧ t.rsp = s.rsp ∧ s.sameDemod t ∧ s.sameEnvironment t

/-- R113: `RB.AVAIL` returns `(head - tail) mod SAMPLE_LEN`, an integer in `[0, SAMPLE_LEN - 1]`, in one
step, and writes no state of PPMD. -/
def Obligations.RbAvailReturnsBufferedLength : Prop :=
  (∀ c bus, decode c (.command ⟨0x00#8, bus⟩) = .ok .rbAvail) ∧
  ∀ s : State, s.cfg.admitted = true → ∃ t n, exec .rbAvail s = .next t ∧
    t.answers (fun r => r.count = n) ∧
    (n : Int) = ((s.head : Int) - (s.tail : Int)) % (s.cfg.sampleLen : Int) ∧
    n ≤ s.cfg.sampleLen - 1 ∧
    t.mem = s.mem ∧ (∀ a, sampleAt t a = sampleAt s a) ∧ t.head = s.head ∧ t.tail = s.tail ∧
    t.rphase = s.rphase ∧ s.sameDemod t ∧ s.sameEnvironment t

/-- R116, R117: `RB.READ` with something available returns the bit at `tail` and advances `tail`; the cell
keeps its bit. When something is available is worded in two ways, of which the model takes either (log 5). -/
def Obligations.RbReadReturnsOldestSample : Prop :=
  ∀ s : State, (0 < s.readCredit ∨ s.head ≠ s.tail) → ∃ t, exec .rbRead s = .next t ∧
    t.answers (fun r => r.bit = sampleAt s s.tail) ∧ t.tail = (s.tail + 1) % s.cfg.sampleLen ∧
    t.mem = s.mem ∧ (∀ a, sampleAt t a = sampleAt s a) ∧ t.head = s.head ∧ t.rphase = s.rphase ∧
    t.readCredit = s.readCredit - 1 ∧ s.sameDemod t ∧ s.sameEnvironment t

/-- R116, U1: `RB.READ` is refused exactly when both wordings of its precondition fail (log 5). -/
def Obligations.RbReadRefusedWhenNothingAvailable : Prop :=
  ∀ s : State, exec .rbRead s = .refused .readNothingAvailable ↔ s.head = s.tail ∧ s.readCredit = 0

/-- R118, R32: the two steps of `RB.RESET`. The first clears `head`, the second clears `tail`; no cell
changes. That the response comes with the second step (log 15), and that `cmd_ready` is then 1 in the same
moment (log 18), are the model's choices. -/
def Obligations.RbResetTakesTwoSteps : Prop :=
  ∀ s : State,
    (s.rphase = .idle → ∃ t, exec .rbReset s = .next t ∧ t.head = 0 ∧ t.rphase = .headCleared ∧
      t.tail = s.tail ∧ t.mem = s.mem ∧ (∀ a, sampleAt t a = sampleAt s a) ∧ t.rsp = s.rsp ∧
      cmdReady t = false ∧ s.sameDemod t ∧ s.sameEnvironment t) ∧
    (s.rphase = .headCleared → ∃ t, exec .rbReset s = .next t ∧ t.tail = 0 ∧ t.rphase = .idle ∧
      t.head = s.head ∧ t.mem = s.mem ∧ (∀ a, sampleAt t a = sampleAt s a) ∧
      t.answers (fun _ => True) ∧ cmdReady t = true ∧ s.sameDemod t ∧ s.sameEnvironment t)

/-- R119 (a), (b), R227: samples written between the two steps of `RB.RESET` and after it are kept, in
order, and nothing older becomes readable; with none written the count is 0. -/
def Obligations.ResetWindowKeepsNewSamples : Prop :=
  ∀ (s : State) (during after : List Bit), s.Inv → s.rphase = .idle →
    during.length + after.length < s.cfg.sampleLen →
    ∃ t, execAll ([.rbReset] ++ during.map (fun b => .rbWrite b) ++ [.rbReset] ++
        after.map (fun b => .rbWrite b)) s = .next t ∧
      t.Holds (during ++ after) ∧ s.sameDemod t

/-- R120: the increment and the difference of indices below the capacity; for a capacity `2 ^ k` they are
the `k`-bit wrapping increment and subtraction. -/
def Obligations.IndexArithmeticWraps : Prop :=
  (∀ n h t : Nat, h < n → t < n →
    indexInc n h = (if h + 1 = n then 0 else h + 1) ∧ indexInc n h < n ∧
    indexDiff n h t = (if t ≤ h then h - t else h + n - t) ∧ indexDiff n h t < n) ∧
  ∀ k h t : Nat, h < 2 ^ k → t < 2 ^ k →
    indexInc (2 ^ k) h = (BitVec.ofNat k h + 1).toNat ∧
    indexDiff (2 ^ k) h t = (BitVec.ofNat k h - BitVec.ofNat k t).toNat

/-- R111, R114 (a), R63, U4: writes are never held back. After any number of them the buffered length has
grown modulo the capacity, the last `SAMPLE_LEN` samples written stand in their cells (older ones are
overwritten), cells not written to are unchanged, and `tail` is not touched. -/
def Obligations.WritesOverwriteWithoutBound : Prop :=
  ∀ (s : State) (bs : List Bit), s.Inv → ∃ t, writeAll bs s = .next t ∧
    bufferedLength t = (bufferedLength s + bs.length) % s.cfg.sampleLen ∧
    t.head = (s.head + bs.length) % s.cfg.sampleLen ∧ t.tail = s.tail ∧
    (∀ k, k < bs.length → bs.length ≤ k + s.cfg.sampleLen →
      some (sampleAt t ((s.head + k) % s.cfg.sampleLen)) = bs[k]?) ∧
    (∀ a, (∀ k, k < bs.length → a ≠ (s.head + k) % s.cfg.sampleLen) →
      sampleAt t a = sampleAt s a) ∧
    s.sameDemod t

/-- R63, R121 (i): the ring buffer is a FIFO as long as the unread count stays below the capacity: every
count is the true unread count, and the reads return the written bits in order, none lost or
duplicated. The sequences include reads with no `RB.AVAIL` before them, on a buffer that is not empty; that
they complete is the model's choice (log 5), since R116 and the last sentence of R63 do not count them. -/
def Obligations.RingBufferIsFifo : Prop :=
  ∀ (ops : List FifoOp) (s : State) (q q' : List Bit) (outs : List FifoOut),
    s.Inv → s.Holds q → idealFifo s.cfg.sampleLen ops q = some (q', outs) →
    ∃ t, machineFifo ops s = .next (t, outs) ∧ t.Holds q' ∧ s.sameDemod t

/-! ## The demodulator -/

/-- R131: the pulse-width code. Both bounds are inclusive, every length inside encodes a bit, and one
threshold separates the two sub-ranges. -/
def Obligations.ClassifyFollowsPulseWidthCode : Prop :=
  ∀ (c : Config) (n : Nat), c.admitted = true →
    (classify c n = .desync ↔ n < c.minSamples ∨ c.maxSamples < n) ∧
    (classify c n = .bit c.shortBit ↔ c.minSamples ≤ n ∧ n ≤ c.splitSamples) ∧
    (classify c n = .bit (!c.shortBit) ↔ c.splitSamples < n ∧ n ≤ c.maxSamples)

/-- R130, R136, R23: `DM.PROC b` always completes; the level becomes `b`, the run grows by one up to
`MAX_SAMPLES + 1` or starts at 1, and nothing outside the demodulator changes. While the level lasts,
neither the bit count nor the buffer changes. -/
def Obligations.DmProcTracksRun : Prop :=
  (∀ c bus, decode c (.command ⟨0x40#8, bus⟩) = .ok (.dmProc false) ∧
    decode c (.command ⟨0x41#8, bus⟩) = .ok (.dmProc true)) ∧
  ∀ (b : Bit) (s : State), ∃ t, exec (.dmProc b) s = .next t ∧ t.lvl = b ∧
    t.run = (if b = s.lvl then min (s.run + 1) (s.cfg.maxSamples + 1) else 1) ∧
    (b = s.lvl → t.nbits = s.nbits ∧ t.msg = s.msg) ∧
    t.answers (fun _ => True) ∧ s.sameRing t ∧ s.sameEnvironment t

/-- R130, R133: a transition that ends a run of a pulse level with a length that encodes `v` stores `v` at
frame bit `nbits`, exactly, and no other bit of the buffer changes. -/
def Obligations.DmProcStoresClassifiedBit : Prop :=
  ∀ (b v : Bit) (s : State), b ≠ s.lvl → s.cfg.pulseLevel s.lvl = true →
    classify s.cfg s.run = .bit v → s.nbits < s.cfg.msgBits → s.msg.length = s.cfg.msgBytes →
    ∃ t, exec (.dmProc b) s = .next t ∧ t.nbits = s.nbits + 1 ∧ frameBit t.msg s.nbits = v ∧
      (∀ k, k ≠ s.nbits → frameBit t.msg k = frameBit s.msg k) ∧ t.msg.length = s.msg.length ∧
      t.lvl = b ∧ t.run = 1 ∧ s.sameRing t ∧ s.sameEnvironment t

/-- R134: a bit that arrives when the buffer is full is dropped, and a completed frame stays; a desync in
the same situation clears it (R135). -/
def Obligations.DmProcDropsBitWhenFull : Prop :=
  ∀ (b : Bit) (s : State), b ≠ s.lvl → s.cfg.pulseLevel s.lvl = true → s.nbits = s.cfg.msgBits →
    ∃ t, exec (.dmProc b) s = .next t ∧ t.lvl = b ∧ t.run = 1 ∧
      (∀ v, classify s.cfg s.run = .bit v → t.nbits = s.nbits ∧ t.msg = s.msg) ∧
      (classify s.cfg s.run = .desync →
        t.nbits = 0 ∧ t.msg = List.replicate s.cfg.msgBytes 0x00#8) ∧
      s.sameRing t ∧ s.sameEnvironment t

/-- R135: a classified run out of bounds clears the bit count and the buffer in the step of the transition
that ends it, whatever was held, and the new run starts with that sample. -/
def Obligations.DmProcDesyncClears : Prop :=
  ∀ (b : Bit) (s : State), b ≠ s.lvl → s.cfg.pulseLevel s.lvl = true →
    (s.run < s.cfg.minSamples ∨ s.cfg.maxSamples < s.run) →
    ∃ t, exec (.dmProc b) s = .next t ∧ t.nbits = 0 ∧
      t.msg = List.replicate s.cfg.msgBytes 0x00#8 ∧ t.lvl = b ∧ t.run = 1 ∧
      s.sameRing t ∧ s.sameEnvironment t

/-- R132: a completed run of a level that is not in `PULSE_LEVELS` has no effect on the bit count or the
buffer, whatever its length. -/
def Obligations.DmProcIgnoresOtherLevels : Prop :=
  ∀ (b : Bit) (s : State), b ≠ s.lvl → s.cfg.pulseLevel s.lvl = false →
    ∃ t, exec (.dmProc b) s = .next t ∧ t.nbits = s.nbits ∧ t.msg = s.msg ∧ t.lvl = b ∧ t.run = 1 ∧
      s.sameRing t ∧ s.sameEnvironment t

/-- R136, R142: samples of the level of the run in progress only lengthen it, up to the ceiling, however
many they are; the saturated length is classified as the true one would be. -/
def Obligations.SaturatedRunClassifiesAsTrueLength : Prop :=
  ∀ (s : State) (n : Nat), s.Inv →
    ∃ t, feedRun s.lvl n s = .next t ∧ t.run = min (s.run + n) (s.cfg.maxSamples + 1) ∧
      t.lvl = s.lvl ∧ t.nbits = s.nbits ∧ t.msg = s.msg ∧ s.sameRing t ∧
      classify s.cfg t.run = classify s.cfg (s.run + n)

/-- R137, R27: `DM.RXLEN` returns `nbits`, at most `MSG_BITS`, and changes no state of PPMD; `frame_ready`
is 1 exactly when that count is `MSG_BITS`. -/
def Obligations.DmRxlenReturnsBitCount : Prop :=
  (∀ c bus, decode c (.command ⟨0x50#8, bus⟩) = .ok .dmRxlen) ∧
  ∀ s : State, ∃ t, exec .dmRxlen s = .next t ∧ t.answers (fun r => r.count = s.nbits) ∧
    (s.Inv → s.nbits ≤ s.cfg.msgBits) ∧ (frameReady s = true ↔ s.nbits = s.cfg.msgBits) ∧
    s.sameRing t ∧ s.sameDemod t ∧ s.sameEnvironment t

/-- R138, R29, R188: `DM.GETMSG` returns the whole output buffer, byte 0 first, in one access, and clears
nothing; bits not yet received read 0 (D13; log 14). -/
def Obligations.DmGetmsgReturnsBuffer : Prop :=
  (∀ c bus, decode c (.command ⟨0x60#8, bus⟩) = .ok .dmGetmsg) ∧
  ∀ s : State, ∃ t, exec .dmGetmsg s = .next t ∧
    t.answers (fun r => r.frame = s.msg ∧
      (s.Inv → r.frame.length = s.cfg.msgBytes ∧
        ∀ k, k < s.cfg.msgBits → s.nbits ≤ k → frameBit r.frame k = false)) ∧
    s.sameRing t ∧ s.sameDemod t ∧ s.sameEnvironment t

/-- R139: `DM.RESET` clears the bit count, every byte of the buffer, the level and the run, from any state,
and changes nothing else. -/
def Obligations.DmResetClearsDemodulator : Prop :=
  (∀ c bus, decode c (.command ⟨0x70#8, bus⟩) = .ok .dmReset) ∧
  ∀ s : State, ∃ t, exec .dmReset s = .next t ∧ t.nbits = 0 ∧
    t.msg = List.replicate s.cfg.msgBytes 0x00#8 ∧ t.lvl = false ∧ t.run = 0 ∧
    t.answers (fun _ => True) ∧ s.sameRing t ∧ s.sameEnvironment t

/-- R140: whatever the first sample after a demodulator reset, the demodulator then holds a run of that
level and length 1 and no bit: the zero-length run never produces one. -/
def Obligations.FirstSampleAfterReset : Prop :=
  ∀ (b : Bit) (s : State), s.cfg.admitted = true →
    ∃ t, execAll [.dmReset, .dmProc b] s = .next t ∧ t.lvl = b ∧ t.run = 1 ∧ t.nbits = 0 ∧
      t.msg = List.replicate s.cfg.msgBytes 0x00#8

/-- R144 (ii): a desync revealed by sample `b` leaves exactly the demodulator state that `DM.RESET` followed
by `DM.PROC b` leaves, so the next frame is not corrupted. -/
def Obligations.DesyncEqualsResetThenSample : Prop :=
  ∀ (b : Bit) (s : State), s.cfg.admitted = true → b ≠ s.lvl → s.cfg.pulseLevel s.lvl = true →
    (s.run < s.cfg.minSamples ∨ s.cfg.maxSamples < s.run) →
    ∃ t u, exec (.dmProc b) s = .next t ∧ execAll [.dmReset, .dmProc b] s = .next u ∧ u.sameDemod t

/-- R144 (i): a canonical pattern decodes. From a demodulator reset, feed any maximal runs none of whose
classified lengths is out of bounds, then the sample that ends the last run: the bits held are those of
the classified runs, in order. -/
def Obligations.CanonicalPatternDecodes : Prop :=
  ∀ (s : State) (rs : List Run) (last : Run), s.Inv → maximalRuns rs → rs.getLast? = some last →
    noDesync s.cfg rs → (bitsOf s.cfg rs).length ≤ s.cfg.msgBits →
    ∃ t, execAll (.dmReset :: (samplesOf rs ++ [!last.1]).map (fun b => .dmProc b)) s = .next t ∧
      t.nbits = (bitsOf s.cfg rs).length ∧
      (∀ k, k < (bitsOf s.cfg rs).length → some (frameBit t.msg k) = (bitsOf s.cfg rs)[k]?) ∧
      s.sameRing t

/-- R51, R133: a bit written at frame position `k` reads back, and every other frame bit is unchanged. -/
def Obligations.FrameBitReadAfterWrite : Prop :=
  ∀ (F : Frame) (k j : Nat) (v : Bit), k < 8 * F.length →
    frameBit (setFrameBit F k v) j = (if j = k then v else frameBit F j)

/-! ## The frame decoder -/

/-- R164: `FD.VALIDATE F` returns whether every byte of the checksum region is that of the checksum of the
data region, and changes no state of PPMD. -/
def Obligations.FdValidateComparesChecksum : Prop :=
  (∀ c bus, decode c (.command ⟨0x80#8, bus⟩) = .ok (.fdValidate (busFrame c bus))) ∧
  ∀ (F : Frame) (s : State), s.cfg.admitted = true → Frame.wellFormed s.cfg F = true →
    ∃ t, exec (.fdValidate F) s = .next t ∧
      t.answers (fun r => r.ok = true ↔
        ∀ i, i < s.cfg.chkLen →
          (checksum s.cfg (F.take s.cfg.dataLen))[i]? = F[s.cfg.dataLen + i]?) ∧
      s.sameRing t ∧ s.sameDemod t ∧ s.sameEnvironment t

/-- R165 (a), (b), (c) with the property CHK_BITFLIP (R163): a frame whose checksum is recomputed from its
data validates; flipping one bit of the data of a valid frame makes it invalid; and so does any change of
its checksum region alone. -/
def Obligations.CorruptedFramesAreInvalid : Prop :=
  ∀ c : Config, c.admitted = true →
    (∀ d : List Byte, d.length = c.dataLen → frameValid c (d ++ checksum c d) = true) ∧
    (∀ (F : Frame) (k : Nat), ChkBitflip c → Frame.wellFormed c F = true → frameValid c F = true →
      k < 8 * c.dataLen → frameValid c (flipBit F k) = false) ∧
    (∀ F G : Frame, Frame.wellFormed c F = true → Frame.wellFormed c G = true →
      frameValid c F = true → F.take c.dataLen = G.take c.dataLen → F ≠ G → frameValid c G = false)

/-- R163 with `95_test_vectors.md` section 0: both test instances of `CHK` have the property CHK_BITFLIP. -/
def Obligations.TestChecksumsHaveBitflip : Prop :=
  ∀ c : Config, c.admitted = true → c.chk = .sum8 ∨ c.chk = .crc8x31 → ChkBitflip c

/-- R167, R168, R53: `FD.DECODE F` returns, for each field, `raw * MUL + ADD` exactly, with `raw` below
`2 ^ W`: an admitted configuration never overflows 32 bits. No state of PPMD changes. -/
def Obligations.FdDecodeScalesExactly : Prop :=
  (∀ c bus, decode c (.command ⟨0x90#8, bus⟩) = .ok (.fdDecode (busFrame c bus))) ∧
  ∀ (F : Frame) (s : State), s.cfg.admitted = true → Frame.wellFormed s.cfg F = true →
    ∃ t, exec (.fdDecode F) s = .next t ∧
      t.answers (fun r => r.fields.toList.map BitVec.toInt =
        s.cfg.fields.toList.map fun f => (rawField F f.off f.width : Int) * f.mul + f.add) ∧
      (∀ f ∈ s.cfg.fields.toList, rawField F f.off f.width < 2 ^ f.width) ∧
      s.sameRing t ∧ s.sameDemod t ∧ s.sameEnvironment t

/-- R53: a field is the unsigned number whose bit `W - 1 - i` is frame bit `OFF + i`. -/
def Obligations.RawFieldIsBigEndian : Prop :=
  ∀ (F : Frame) (off w j : Nat),
    (rawField F off w).testBit j = (decide (j < w) && frameBit F (off + (w - 1 - j)))

/-- R170, R161: `FD.VDEC F` returns the verdict of `FD.VALIDATE F` and, of a valid frame, the fields of
`FD.DECODE F`; of an invalid frame all six are 0. No state of PPMD changes. -/
def Obligations.FdVdecHidesInvalidFrames : Prop :=
  (∀ c bus, decode c (.command ⟨0xA0#8, bus⟩) = .ok (.fdVdec (busFrame c bus))) ∧
  ∀ (F : Frame) (s : State), ∃ t u v rv rd, exec (.fdVdec F) s = .next t ∧
    exec (.fdValidate F) s = .next u ∧ u.rsp = some rv ∧
    exec (.fdDecode F) s = .next v ∧ v.rsp = some rd ∧
    t.answers (fun r => r.ok = rv.ok ∧ (rv.ok = true → r.fields = rd.fields) ∧
      (rv.ok = false → r.fields.toList = List.replicate 6 0#32)) ∧
    s.sameRing t ∧ s.sameDemod t ∧ s.sameEnvironment t

/-- R171: `FD.RAW F` returns `F`, every byte unchanged, valid or not, and changes no state of PPMD. -/
def Obligations.FdRawReturnsFrame : Prop :=
  (∀ c bus, decode c (.command ⟨0xB0#8, bus⟩) = .ok (.fdRaw (busFrame c bus))) ∧
  ∀ (F : Frame) (s : State), Frame.wellFormed s.cfg F = true →
    ∃ t, exec (.fdRaw F) s = .next t ∧ t.answers (fun r => r.frame = F) ∧
      s.sameRing t ∧ s.sameDemod t ∧ s.sameEnvironment t

/-! ## Ownership and interleaving -/

/-- R23, R37, R28: who may write what. An operation that changes a piece of state is one that the access
table lets write it, and no operation changes a parameter. -/
def Obligations.OnlyOwnersWrite : Prop :=
  ∀ (i : Instr) (s t : State), exec i s = .next t →
    (t.mem ≠ s.mem → ∃ b, i = .rbWrite b) ∧
    (t.head ≠ s.head → (∃ b, i = .rbWrite b) ∨ (i = .rbReset ∧ t.head = 0)) ∧
    (t.tail ≠ s.tail → i = .rbRead ∨ (i = .rbReset ∧ t.tail = 0)) ∧
    (t.rphase ≠ s.rphase → i = .rbReset) ∧
    (¬ s.sameDemod t → (∃ b, i = .dmProc b) ∨ i = .dmReset) ∧
    s.sameEnvironment t

/-- R23, R203: the demodulator is not influenced by the ring buffer, nor the ring buffer by the
demodulator: from two states that agree on the one, no operation makes them disagree on it. -/
def Obligations.UnitsDoNotInterfere : Prop :=
  ∀ (i : Instr) (s s' t t' : State), s.cfg = s'.cfg → exec i s = .next t → exec i s' = .next t' →
    (s.sameDemod s' → t.sameDemod t') ∧
    (s.boots = s'.boots → s.sameRing s' → t.sameRing t')

/-- R21, R111, R20, R37: the producer observes nothing the consumer owns: neither `tail` nor `rphase` nor
the demodulator (nor the model's fields for the count the consumer holds, its commands to come, and the
response it was given). Whatever these are, `RB.WRITE` writes the same and leaves them as they are. -/
def Obligations.ProducerNeverReadsTail : Prop :=
  ∀ (b : Bit) (s : State) (n : Nat) (p : RPhase) (l : Bit) (r m : Nat) (F : Frame) (k : Nat)
    (ws : List Command) (a : Option Response), ∃ t u,
    exec (.rbWrite b) s = .next t ∧
    exec (.rbWrite b) { s with
      tail := n, rphase := p, lvl := l, run := r, nbits := m, msg := F, readCredit := k, cmds := ws,
      rsp := a } = .next u ∧
    u.mem = t.mem ∧ u.head = t.head ∧
    u = { t with
      tail := n, rphase := p, lvl := l, run := r, nbits := m, msg := F, readCredit := k, cmds := ws,
      rsp := a }

/-- R62, R196: a tick may come before or after any demodulator or frame decoder operation; both orders end
in the same state. -/
def Obligations.TicksCommuteWithOtherUnits : Prop :=
  ∀ (b : Bit) (i : Instr) (s : State), (∀ v, i ≠ .rbWrite v) → i ≠ .rbAvail → i ≠ .rbRead →
    i ≠ .rbReset →
    ∃ t, andThen (exec (.rbWrite b) s) (exec i) = .next t ∧
      andThen (exec i s) (exec (.rbWrite b)) = .next t

/-! ## The consumer's drain pass -/

/-- R181, R223: `PIPE.RESET` with no write in between leaves the registers of R40, except for the sample
memory, which keeps its contents. -/
def Obligations.PipeResetRestoresResetRegisters : Prop :=
  ∀ s : State, s.rphase = .idle → ∃ p, pipeReset { machine := s, gaps := [] } = .next p ∧
    p.machine.head = 0 ∧ p.machine.tail = 0 ∧ p.machine.rphase = .idle ∧ p.machine.lvl = false ∧
    p.machine.run = 0 ∧ p.machine.nbits = 0 ∧
    p.machine.msg = List.replicate s.cfg.msgBytes 0x00#8 ∧
    p.machine.mem = s.mem ∧ (∀ a, sampleAt p.machine a = sampleAt s a)

/-- R182, R183, R186 (d), R191 (b): if the count that the one `RB.AVAIL` returns, wrapped or not, is more
than half of the capacity, the pass discards whatever is buffered, and the demodulator is reset with it or
left alone as the policy `OVF_RESETS_DEMOD` says. The producer may write before every step of the pass:
what it writes from between the two steps of `RB.RESET` on is kept (R119), in order if it fits, and no
other cell changes but those it writes to. -/
def Obligations.ServiceDiscardsBacklog : Prop :=
  ∀ (p : Pass) (m : State) (kept : List Bit), p.machine.Inv → p.machine.rphase = .idle →
    writeAll (p.gaps.getD 0 []) p.machine = .next m → m.cfg.sampleLen < 2 * bufferedLength m →
    kept = p.gaps.getD 2 [] ++ (if m.cfg.ovfResetsDemod then p.gaps.getD 3 [] else []) →
    ∃ r, service p = .next r ∧ r.discarded = true ∧ r.frames = [] ∧
      r.pass.gaps = p.gaps.drop (if m.cfg.ovfResetsDemod then 4 else 3) ∧
      r.pass.machine.tail = 0 ∧ r.pass.machine.rphase = .idle ∧
      r.pass.machine.head = kept.length % m.cfg.sampleLen ∧
      (kept.length < m.cfg.sampleLen → r.pass.machine.Holds kept) ∧
      (∀ a, (∀ k, k < (p.gaps.getD 0 [] ++ p.gaps.getD 1 []).length →
          a ≠ (p.machine.head + k) % m.cfg.sampleLen) →
        (∀ k, k < kept.length → a ≠ k % m.cfg.sampleLen) →
        sampleAt r.pass.machine a = sampleAt p.machine a) ∧
      (p.gaps = [] → r.pass.machine.mem = p.machine.mem) ∧
      (m.cfg.ovfResetsDemod = true → r.pass.machine.lvl = false ∧ r.pass.machine.run = 0 ∧
        r.pass.machine.nbits = 0 ∧ r.pass.machine.msg = List.replicate m.cfg.msgBytes 0x00#8) ∧
      (m.cfg.ovfResetsDemod = false → p.machine.sameDemod r.pass.machine)

/-- R182, R184, R186 (a), (b), R226, R229: let the unread samples at the snapshot be at most half the
capacity, and let the producer write before every step of the pass without overflowing the buffer. Then the
pass returns exactly the frames that the demodulator completes on the samples of the snapshot, each taken
at once, and what was written after the snapshot is left, in order, for the next pass. -/
def Obligations.ServiceDeliversCompletedFrames : Prop :=
  ∀ (p : Pass) (q snap : List Bit) (steps : List Instr), p.machine.Inv → p.machine.Holds q →
    snap = q ++ p.gaps.headD [] → 2 * snap.length ≤ p.machine.cfg.sampleLen →
    steps = drainSteps snap p.machine →
    keepsUp p.machine.cfg.sampleLen q.length p.gaps (.rbAvail :: steps) = true →
    ∃ r, service p = .next r ∧ r.discarded = false ∧
      r.frames = (framesOf snap p.machine).2 ∧
      (framesOf snap p.machine).1.sameDemod r.pass.machine ∧
      r.pass.gaps = p.gaps.tail.drop steps.length ∧
      r.pass.machine.Holds (p.gaps.tail.take steps.length).flatten

/-- R186 (e), R225: whatever the producer writes between the commands of a pass, no command of `SERVICE` is
ever refused: the count of its one `RB.AVAIL` covers every `RB.READ`. Writes that bring `head` back to
`tail` during the pass are included; that the reads then complete, as R116 words it, although D21 and U1
word it otherwise, is the model's choice (log 5). -/
def Obligations.ServiceIsNeverRefused : Prop :=
  ∀ p : Pass, p.machine.Inv → p.machine.rphase = .idle →
    ∃ r, service p = .next r ∧ r.pass.machine.Inv ∧ r.pass.machine.rphase = .idle

/-! ## The command port -/

/-- R11: a command is accepted, and leaves the list of commands to come, exactly where `cmd_valid` and
`cmd_ready` are both 1. When the consumer asserts `cmd_valid` is the model's choice (log 9), and so is that
`cmd_ready` is 1 again in the moment of a response (log 18). -/
def Obligations.CommandAcceptedOnHandshake : Prop :=
  ∀ s t : State, step s = .next t →
    ((∃ w, s.cmds = w :: t.cmds) ↔ cmdValid s = true ∧ cmdReady s = true) ∧
    (¬ (cmdValid s = true ∧ cmdReady s = true) → t.cmds = s.cmds)

/-- R88, R192, U6: the model refuses every reserved command byte that the consumer's turn presents, by its
value. -/
def Obligations.ReservedByteRefused : Prop :=
  ∀ (s : State) rest w ws, s.sched = .consumer :: rest → s.rphase = .idle → s.cmds = w :: ws →
    w.cmd ∉ [0x00#8, 0x10#8, 0x20#8, 0x40#8, 0x41#8, 0x50#8, 0x60#8, 0x70#8, 0x80#8, 0x90#8, 0xA0#8,
      0xB0#8] →
    step s = .refused (.reservedCommand w.cmd)

/-- R88: the hardware rendering of a turn differs from the model's step in the reserved bytes only: where
the step answers a next state, or stops for another reason, the rendering does the same; and it never
refuses a reserved byte. That the rendering stands beside the step is the model's choice (log 6). -/
def Obligations.HardwareTurnAgreesWithStep : Prop :=
  (∀ s : State, (∀ b, step s ≠ .refused (.reservedCommand b)) → hardwareTurn s = step s) ∧
  ∀ (s : State) b, hardwareTurn s ≠ .refused (.reservedCommand b)

end
end

