-- ==== Sys2Proof/Laws/PerInstr.lean ====
section
/-! SUPPORT. Facts about every operation as syntax, one lemma per constructor of `Instr`. -/

namespace Sys2Proof.Laws

theorem foldl_bus_lt (F : Frame) (acc n : Nat) (h : acc < 2 ^ (8 * n)) :
    F.foldl (fun acc B => 256 * acc + B.toNat) acc < 2 ^ (8 * (n + F.length)) := by
  induction F generalizing acc n with
  | nil => simpa using h
  | cons B F ih =>
    have hB := B.isLt
    have hstep : 256 * acc + B.toNat < 2 ^ (8 * (n + 1)) := by
      rw [Nat.mul_add, Nat.pow_add]; omega
    have := ih (256 * acc + B.toNat) (n + 1) hstep
    simpa [Nat.add_assoc, Nat.add_comm 1] using this

/-- A frame fits the bus of its own length. -/
theorem frameBus_lt (F : Frame) : frameBus F < 2 ^ (8 * F.length) := by
  simpa [frameBus] using foldl_bus_lt F 0 0 (by simp)

/-- A well-formed frame fits the bus of the configuration (R11). -/
theorem frameBus_fits {c : Config} {F : Frame} (h : Frame.wellFormed c F = true) :
    decide (frameBus F < 2 ^ c.msgBits) = true := by
  have := frameBus_lt F
  simp only [Frame.wellFormed, beq_iff_eq] at h
  rw [h] at this
  exact decide_eq_true this

/-- An operation is encoded for the port its agent owns (R200), and a command fits the command port
(R11). -/
def EncodesForItsPort.Statement (i : Instr) : Prop :=
  ∀ c, i.wellFormed c = true →
    match encode i with
    | .sample b => i = .rbWrite b
    | .command w => w.wellFormed c = true ∧ ∀ b, i ≠ .rbWrite b

theorem EncodesForItsPort.rbWrite (b : Bit) : EncodesForItsPort.Statement (.rbWrite b) := by
  intro c _; rfl

theorem EncodesForItsPort.rbAvail : EncodesForItsPort.Statement .rbAvail := by
  intro c _
  simp [encode, Command.wellFormed]

theorem EncodesForItsPort.rbRead : EncodesForItsPort.Statement .rbRead := by
  intro c _
  simp [encode, Command.wellFormed]

theorem EncodesForItsPort.rbReset : EncodesForItsPort.Statement .rbReset := by
  intro c _
  simp [encode, Command.wellFormed]

theorem EncodesForItsPort.dmProc (b : Bit) : EncodesForItsPort.Statement (.dmProc b) := by
  intro c _
  simp [encode, Command.wellFormed]

theorem EncodesForItsPort.dmRxlen : EncodesForItsPort.Statement .dmRxlen := by
  intro c _
  simp [encode, Command.wellFormed]

theorem EncodesForItsPort.dmGetmsg : EncodesForItsPort.Statement .dmGetmsg := by
  intro c _
  simp [encode, Command.wellFormed]

theorem EncodesForItsPort.dmReset : EncodesForItsPort.Statement .dmReset := by
  intro c _
  simp [encode, Command.wellFormed]

theorem EncodesForItsPort.fdValidate (F : Frame) : EncodesForItsPort.Statement (.fdValidate F) := by
  intro c h
  exact ⟨frameBus_fits h, fun _ => by simp⟩

theorem EncodesForItsPort.fdDecode (F : Frame) : EncodesForItsPort.Statement (.fdDecode F) := by
  intro c h
  exact ⟨frameBus_fits h, fun _ => by simp⟩

theorem EncodesForItsPort.fdVdec (F : Frame) : EncodesForItsPort.Statement (.fdVdec F) := by
  intro c h
  exact ⟨frameBus_fits h, fun _ => by simp⟩

theorem EncodesForItsPort.fdRaw (F : Frame) : EncodesForItsPort.Statement (.fdRaw F) := by
  intro c h
  exact ⟨frameBus_fits h, fun _ => by simp⟩

end Sys2Proof.Laws
end

