-- ==== Sys2Proof/Laws/Decode.lean ====
section
/-! SUPPORT. What decoding a command can answer, said once. -/

namespace Sys2Proof.Laws

/-- A command byte is made of its four fields (R81). -/
theorem cmd_toNat_of_fields (w : Byte) :
    w.toNat = 64 * unitField w + 16 * functField w + 2 * zeroField w + bField w := by
  have := w.isLt
  unfold unitField functField zeroField bField
  omega

/-- The fields of a command byte determine it. -/
theorem cmd_eq_of_fields {w v : Byte} (hu : unitField w = unitField v) (hf : functField w = functField v)
    (hz : zeroField w = zeroField v) (hb : bField w = bField v) : w = v := by
  apply BitVec.eq_of_toNat_eq
  rw [cmd_toNat_of_fields w, cmd_toNat_of_fields v, hu, hf, hz, hb]

/-- Everything an accepted command can be (R85): its byte and its operation. -/
theorem decodeCommand_ok_cases {c : Config} {w : Command} {i : Instr} (h : decodeCommand c w = .ok i) :
    (w.cmd = 0x00#8 ∧ i = .rbAvail) ∨ (w.cmd = 0x10#8 ∧ i = .rbRead) ∨
    (w.cmd = 0x20#8 ∧ i = .rbReset) ∨ (w.cmd = 0x40#8 ∧ i = .dmProc false) ∨
    (w.cmd = 0x41#8 ∧ i = .dmProc true) ∨ (w.cmd = 0x50#8 ∧ i = .dmRxlen) ∨
    (w.cmd = 0x60#8 ∧ i = .dmGetmsg) ∨ (w.cmd = 0x70#8 ∧ i = .dmReset) ∨
    (w.cmd = 0x80#8 ∧ i = .fdValidate (busFrame c w.cmdFrame)) ∨
    (w.cmd = 0x90#8 ∧ i = .fdDecode (busFrame c w.cmdFrame)) ∨
    (w.cmd = 0xA0#8 ∧ i = .fdVdec (busFrame c w.cmdFrame)) ∨
    (w.cmd = 0xB0#8 ∧ i = .fdRaw (busFrame c w.cmdFrame)) := by
  have hw := cmd_toNat_of_fields w.cmd
  unfold decodeCommand at h
  split at h
  · next j hj =>
    cases h
    unfold selectInstr at hj
    split at hj <;> simp_all [← BitVec.toNat_inj]
  · cases h

/-- A command is rejected only as reserved, by its own byte (R88). -/
theorem decodeCommand_error {c : Config} {w : Command} {e : DecodeError}
    (h : decodeCommand c w = .error e) : e = .reserved w.cmd := by
  unfold decodeCommand at h
  split at h
  · cases h
  · cases h; rfl

/-- The frame operand of a command has `MSG_BYTES` bytes (R83). -/
@[simp] theorem busFrame_length (c : Config) (bus : Nat) : (busFrame c bus).length = c.msgBytes := by
  simp [busFrame]

end Sys2Proof.Laws
end

