-- ==== Sys2Proof/Laws/State.lean ====
section
/-! SUPPORT. One lemma per field per update of the state, so that no proof unfolds an update. -/

namespace Sys2Proof.Machine

/-! ## `quiet` -/

@[simp] theorem quiet_mem (s : State) : (quiet s).mem = s.mem := rfl
@[simp] theorem quiet_head (s : State) : (quiet s).head = s.head := rfl
@[simp] theorem quiet_tail (s : State) : (quiet s).tail = s.tail := rfl
@[simp] theorem quiet_rphase (s : State) : (quiet s).rphase = s.rphase := rfl
@[simp] theorem quiet_lvl (s : State) : (quiet s).lvl = s.lvl := rfl
@[simp] theorem quiet_run (s : State) : (quiet s).run = s.run := rfl
@[simp] theorem quiet_nbits (s : State) : (quiet s).nbits = s.nbits := rfl
@[simp] theorem quiet_msg (s : State) : (quiet s).msg = s.msg := rfl
@[simp] theorem quiet_rsp (s : State) : (quiet s).rsp = none := rfl
@[simp] theorem quiet_cfg (s : State) : (quiet s).cfg = s.cfg := rfl
@[simp] theorem quiet_readCredit (s : State) : (quiet s).readCredit = s.readCredit := rfl
@[simp] theorem quiet_sched (s : State) : (quiet s).sched = s.sched := rfl
@[simp] theorem quiet_cmds (s : State) : (quiet s).cmds = s.cmds := rfl
@[simp] theorem quiet_freeCtr (s : State) : (quiet s).freeCtr = s.freeCtr := rfl
@[simp] theorem quiet_boots (s : State) : (quiet s).boots = s.boots := rfl

/-! ## `startTurn` -/

@[simp] theorem startTurn_mem (rest : List Turn) (s : State) : (startTurn rest s).mem = s.mem := rfl
@[simp] theorem startTurn_head (rest : List Turn) (s : State) :
    (startTurn rest s).head = s.head := rfl
@[simp] theorem startTurn_tail (rest : List Turn) (s : State) :
    (startTurn rest s).tail = s.tail := rfl
@[simp] theorem startTurn_rphase (rest : List Turn) (s : State) :
    (startTurn rest s).rphase = s.rphase := rfl
@[simp] theorem startTurn_lvl (rest : List Turn) (s : State) : (startTurn rest s).lvl = s.lvl := rfl
@[simp] theorem startTurn_run (rest : List Turn) (s : State) : (startTurn rest s).run = s.run := rfl
@[simp] theorem startTurn_nbits (rest : List Turn) (s : State) :
    (startTurn rest s).nbits = s.nbits := rfl
@[simp] theorem startTurn_msg (rest : List Turn) (s : State) : (startTurn rest s).msg = s.msg := rfl
@[simp] theorem startTurn_rsp (rest : List Turn) (s : State) : (startTurn rest s).rsp = none := rfl
@[simp] theorem startTurn_cfg (rest : List Turn) (s : State) : (startTurn rest s).cfg = s.cfg := rfl
@[simp] theorem startTurn_readCredit (rest : List Turn) (s : State) :
    (startTurn rest s).readCredit = s.readCredit := rfl
@[simp] theorem startTurn_sched (rest : List Turn) (s : State) :
    (startTurn rest s).sched = rest := rfl
@[simp] theorem startTurn_cmds (rest : List Turn) (s : State) :
    (startTurn rest s).cmds = s.cmds := rfl
@[simp] theorem startTurn_freeCtr (rest : List Turn) (s : State) :
    (startTurn rest s).freeCtr = s.freeCtr := rfl
@[simp] theorem startTurn_boots (rest : List Turn) (s : State) :
    (startTurn rest s).boots = s.boots := rfl

/-! ## `setCommands` -/

@[simp] theorem setCommands_mem (ws : List Command) (s : State) :
    (setCommands ws s).mem = s.mem := rfl
@[simp] theorem setCommands_head (ws : List Command) (s : State) :
    (setCommands ws s).head = s.head := rfl
@[simp] theorem setCommands_tail (ws : List Command) (s : State) :
    (setCommands ws s).tail = s.tail := rfl
@[simp] theorem setCommands_rphase (ws : List Command) (s : State) :
    (setCommands ws s).rphase = s.rphase := rfl
@[simp] theorem setCommands_lvl (ws : List Command) (s : State) :
    (setCommands ws s).lvl = s.lvl := rfl
@[simp] theorem setCommands_run (ws : List Command) (s : State) :
    (setCommands ws s).run = s.run := rfl
@[simp] theorem setCommands_nbits (ws : List Command) (s : State) :
    (setCommands ws s).nbits = s.nbits := rfl
@[simp] theorem setCommands_msg (ws : List Command) (s : State) :
    (setCommands ws s).msg = s.msg := rfl
@[simp] theorem setCommands_rsp (ws : List Command) (s : State) :
    (setCommands ws s).rsp = s.rsp := rfl
@[simp] theorem setCommands_cfg (ws : List Command) (s : State) :
    (setCommands ws s).cfg = s.cfg := rfl
@[simp] theorem setCommands_readCredit (ws : List Command) (s : State) :
    (setCommands ws s).readCredit = s.readCredit := rfl
@[simp] theorem setCommands_sched (ws : List Command) (s : State) :
    (setCommands ws s).sched = s.sched := rfl
@[simp] theorem setCommands_cmds (ws : List Command) (s : State) :
    (setCommands ws s).cmds = ws := rfl
@[simp] theorem setCommands_freeCtr (ws : List Command) (s : State) :
    (setCommands ws s).freeCtr = s.freeCtr := rfl
@[simp] theorem setCommands_boots (ws : List Command) (s : State) :
    (setCommands ws s).boots = s.boots := rfl

/-! ## `respond` -/

@[simp] theorem respond_mem (drive : Response → Response) (s : State) :
    (respond drive s).mem = s.mem := rfl
@[simp] theorem respond_head (drive : Response → Response) (s : State) :
    (respond drive s).head = s.head := rfl
@[simp] theorem respond_tail (drive : Response → Response) (s : State) :
    (respond drive s).tail = s.tail := rfl
@[simp] theorem respond_rphase (drive : Response → Response) (s : State) :
    (respond drive s).rphase = s.rphase := rfl
@[simp] theorem respond_lvl (drive : Response → Response) (s : State) :
    (respond drive s).lvl = s.lvl := rfl
@[simp] theorem respond_run (drive : Response → Response) (s : State) :
    (respond drive s).run = s.run := rfl
@[simp] theorem respond_nbits (drive : Response → Response) (s : State) :
    (respond drive s).nbits = s.nbits := rfl
@[simp] theorem respond_msg (drive : Response → Response) (s : State) :
    (respond drive s).msg = s.msg := rfl
@[simp] theorem respond_rsp (drive : Response → Response) (s : State) :
    (respond drive s).rsp = some (drive (undriven s.cfg s.freeCtr)) := rfl
@[simp] theorem respond_cfg (drive : Response → Response) (s : State) :
    (respond drive s).cfg = s.cfg := rfl
@[simp] theorem respond_readCredit (drive : Response → Response) (s : State) :
    (respond drive s).readCredit = s.readCredit := rfl
@[simp] theorem respond_sched (drive : Response → Response) (s : State) :
    (respond drive s).sched = s.sched := rfl
@[simp] theorem respond_cmds (drive : Response → Response) (s : State) :
    (respond drive s).cmds = s.cmds := rfl
@[simp] theorem respond_freeCtr (drive : Response → Response) (s : State) :
    (respond drive s).freeCtr = s.freeCtr + 1 := rfl
@[simp] theorem respond_boots (drive : Response → Response) (s : State) :
    (respond drive s).boots = s.boots := rfl

/-! ## `answerIllegal` -/

@[simp] theorem answerIllegal_mem (s : State) : (answerIllegal s).mem = s.mem := rfl
@[simp] theorem answerIllegal_head (s : State) : (answerIllegal s).head = s.head := rfl
@[simp] theorem answerIllegal_tail (s : State) : (answerIllegal s).tail = s.tail := rfl
@[simp] theorem answerIllegal_rphase (s : State) : (answerIllegal s).rphase = s.rphase := rfl
@[simp] theorem answerIllegal_lvl (s : State) : (answerIllegal s).lvl = s.lvl := rfl
@[simp] theorem answerIllegal_run (s : State) : (answerIllegal s).run = s.run := rfl
@[simp] theorem answerIllegal_nbits (s : State) : (answerIllegal s).nbits = s.nbits := rfl
@[simp] theorem answerIllegal_msg (s : State) : (answerIllegal s).msg = s.msg := rfl
@[simp] theorem answerIllegal_rsp (s : State) :
    (answerIllegal s).rsp = some { undriven s.cfg s.freeCtr with illegal := true } := rfl
@[simp] theorem answerIllegal_cfg (s : State) : (answerIllegal s).cfg = s.cfg := rfl
@[simp] theorem answerIllegal_readCredit (s : State) :
    (answerIllegal s).readCredit = s.readCredit := rfl
@[simp] theorem answerIllegal_sched (s : State) : (answerIllegal s).sched = s.sched := rfl
@[simp] theorem answerIllegal_cmds (s : State) : (answerIllegal s).cmds = s.cmds := rfl
@[simp] theorem answerIllegal_freeCtr (s : State) : (answerIllegal s).freeCtr = s.freeCtr + 1 := rfl
@[simp] theorem answerIllegal_boots (s : State) : (answerIllegal s).boots = s.boots := rfl

/-! ## `writeSample` -/

@[simp] theorem writeSample_mem (b : Bit) (s : State) :
    (writeSample b s).mem = Memory.store s.mem s.head b := rfl
@[simp] theorem writeSample_head (b : Bit) (s : State) :
    (writeSample b s).head = indexInc s.cfg.sampleLen s.head := rfl
@[simp] theorem writeSample_tail (b : Bit) (s : State) : (writeSample b s).tail = s.tail := rfl
@[simp] theorem writeSample_rphase (b : Bit) (s : State) :
    (writeSample b s).rphase = s.rphase := rfl
@[simp] theorem writeSample_lvl (b : Bit) (s : State) : (writeSample b s).lvl = s.lvl := rfl
@[simp] theorem writeSample_run (b : Bit) (s : State) : (writeSample b s).run = s.run := rfl
@[simp] theorem writeSample_nbits (b : Bit) (s : State) : (writeSample b s).nbits = s.nbits := rfl
@[simp] theorem writeSample_msg (b : Bit) (s : State) : (writeSample b s).msg = s.msg := rfl
@[simp] theorem writeSample_rsp (b : Bit) (s : State) : (writeSample b s).rsp = s.rsp := rfl
@[simp] theorem writeSample_cfg (b : Bit) (s : State) : (writeSample b s).cfg = s.cfg := rfl
@[simp] theorem writeSample_readCredit (b : Bit) (s : State) :
    (writeSample b s).readCredit = s.readCredit := rfl
@[simp] theorem writeSample_sched (b : Bit) (s : State) : (writeSample b s).sched = s.sched := rfl
@[simp] theorem writeSample_cmds (b : Bit) (s : State) : (writeSample b s).cmds = s.cmds := rfl
@[simp] theorem writeSample_freeCtr (b : Bit) (s : State) :
    (writeSample b s).freeCtr = s.freeCtr := rfl
@[simp] theorem writeSample_boots (b : Bit) (s : State) : (writeSample b s).boots = s.boots := rfl

/-! ## `grantCredit` -/

@[simp] theorem grantCredit_mem (n : Nat) (s : State) : (grantCredit n s).mem = s.mem := rfl
@[simp] theorem grantCredit_head (n : Nat) (s : State) : (grantCredit n s).head = s.head := rfl
@[simp] theorem grantCredit_tail (n : Nat) (s : State) : (grantCredit n s).tail = s.tail := rfl
@[simp] theorem grantCredit_rphase (n : Nat) (s : State) :
    (grantCredit n s).rphase = s.rphase := rfl
@[simp] theorem grantCredit_lvl (n : Nat) (s : State) : (grantCredit n s).lvl = s.lvl := rfl
@[simp] theorem grantCredit_run (n : Nat) (s : State) : (grantCredit n s).run = s.run := rfl
@[simp] theorem grantCredit_nbits (n : Nat) (s : State) : (grantCredit n s).nbits = s.nbits := rfl
@[simp] theorem grantCredit_msg (n : Nat) (s : State) : (grantCredit n s).msg = s.msg := rfl
@[simp] theorem grantCredit_rsp (n : Nat) (s : State) : (grantCredit n s).rsp = s.rsp := rfl
@[simp] theorem grantCredit_cfg (n : Nat) (s : State) : (grantCredit n s).cfg = s.cfg := rfl
@[simp] theorem grantCredit_readCredit (n : Nat) (s : State) :
    (grantCredit n s).readCredit = n := rfl
@[simp] theorem grantCredit_sched (n : Nat) (s : State) : (grantCredit n s).sched = s.sched := rfl
@[simp] theorem grantCredit_cmds (n : Nat) (s : State) : (grantCredit n s).cmds = s.cmds := rfl
@[simp] theorem grantCredit_freeCtr (n : Nat) (s : State) :
    (grantCredit n s).freeCtr = s.freeCtr := rfl
@[simp] theorem grantCredit_boots (n : Nat) (s : State) : (grantCredit n s).boots = s.boots := rfl

/-! ## `spendCredit` -/

@[simp] theorem spendCredit_mem (s : State) : (spendCredit s).mem = s.mem := rfl
@[simp] theorem spendCredit_head (s : State) : (spendCredit s).head = s.head := rfl
@[simp] theorem spendCredit_tail (s : State) : (spendCredit s).tail = s.tail := rfl
@[simp] theorem spendCredit_rphase (s : State) : (spendCredit s).rphase = s.rphase := rfl
@[simp] theorem spendCredit_lvl (s : State) : (spendCredit s).lvl = s.lvl := rfl
@[simp] theorem spendCredit_run (s : State) : (spendCredit s).run = s.run := rfl
@[simp] theorem spendCredit_nbits (s : State) : (spendCredit s).nbits = s.nbits := rfl
@[simp] theorem spendCredit_msg (s : State) : (spendCredit s).msg = s.msg := rfl
@[simp] theorem spendCredit_rsp (s : State) : (spendCredit s).rsp = s.rsp := rfl
@[simp] theorem spendCredit_cfg (s : State) : (spendCredit s).cfg = s.cfg := rfl
@[simp] theorem spendCredit_readCredit (s : State) :
    (spendCredit s).readCredit = s.readCredit - 1 := rfl
@[simp] theorem spendCredit_sched (s : State) : (spendCredit s).sched = s.sched := rfl
@[simp] theorem spendCredit_cmds (s : State) : (spendCredit s).cmds = s.cmds := rfl
@[simp] theorem spendCredit_freeCtr (s : State) : (spendCredit s).freeCtr = s.freeCtr := rfl
@[simp] theorem spendCredit_boots (s : State) : (spendCredit s).boots = s.boots := rfl

/-! ## `takeSample` -/

@[simp] theorem takeSample_mem (s : State) : (takeSample s).mem = s.mem := rfl
@[simp] theorem takeSample_head (s : State) : (takeSample s).head = s.head := rfl
@[simp] theorem takeSample_tail (s : State) :
    (takeSample s).tail = indexInc s.cfg.sampleLen s.tail := rfl
@[simp] theorem takeSample_rphase (s : State) : (takeSample s).rphase = s.rphase := rfl
@[simp] theorem takeSample_lvl (s : State) : (takeSample s).lvl = s.lvl := rfl
@[simp] theorem takeSample_run (s : State) : (takeSample s).run = s.run := rfl
@[simp] theorem takeSample_nbits (s : State) : (takeSample s).nbits = s.nbits := rfl
@[simp] theorem takeSample_msg (s : State) : (takeSample s).msg = s.msg := rfl
@[simp] theorem takeSample_rsp (s : State) : (takeSample s).rsp = s.rsp := rfl
@[simp] theorem takeSample_cfg (s : State) : (takeSample s).cfg = s.cfg := rfl
@[simp] theorem takeSample_readCredit (s : State) :
    (takeSample s).readCredit = s.readCredit - 1 := rfl
@[simp] theorem takeSample_sched (s : State) : (takeSample s).sched = s.sched := rfl
@[simp] theorem takeSample_cmds (s : State) : (takeSample s).cmds = s.cmds := rfl
@[simp] theorem takeSample_freeCtr (s : State) : (takeSample s).freeCtr = s.freeCtr := rfl
@[simp] theorem takeSample_boots (s : State) : (takeSample s).boots = s.boots := rfl

/-! ## `resetHead` -/

@[simp] theorem resetHead_mem (s : State) : (resetHead s).mem = s.mem := rfl
@[simp] theorem resetHead_head (s : State) : (resetHead s).head = 0 := rfl
@[simp] theorem resetHead_tail (s : State) : (resetHead s).tail = s.tail := rfl
@[simp] theorem resetHead_rphase (s : State) : (resetHead s).rphase = .headCleared := rfl
@[simp] theorem resetHead_lvl (s : State) : (resetHead s).lvl = s.lvl := rfl
@[simp] theorem resetHead_run (s : State) : (resetHead s).run = s.run := rfl
@[simp] theorem resetHead_nbits (s : State) : (resetHead s).nbits = s.nbits := rfl
@[simp] theorem resetHead_msg (s : State) : (resetHead s).msg = s.msg := rfl
@[simp] theorem resetHead_rsp (s : State) : (resetHead s).rsp = s.rsp := rfl
@[simp] theorem resetHead_cfg (s : State) : (resetHead s).cfg = s.cfg := rfl
@[simp] theorem resetHead_readCredit (s : State) : (resetHead s).readCredit = 0 := rfl
@[simp] theorem resetHead_sched (s : State) : (resetHead s).sched = s.sched := rfl
@[simp] theorem resetHead_cmds (s : State) : (resetHead s).cmds = s.cmds := rfl
@[simp] theorem resetHead_freeCtr (s : State) : (resetHead s).freeCtr = s.freeCtr := rfl
@[simp] theorem resetHead_boots (s : State) : (resetHead s).boots = s.boots := rfl

/-! ## `resetTail` -/

@[simp] theorem resetTail_mem (s : State) : (resetTail s).mem = s.mem := rfl
@[simp] theorem resetTail_head (s : State) : (resetTail s).head = s.head := rfl
@[simp] theorem resetTail_tail (s : State) : (resetTail s).tail = 0 := rfl
@[simp] theorem resetTail_rphase (s : State) : (resetTail s).rphase = .idle := rfl
@[simp] theorem resetTail_lvl (s : State) : (resetTail s).lvl = s.lvl := rfl
@[simp] theorem resetTail_run (s : State) : (resetTail s).run = s.run := rfl
@[simp] theorem resetTail_nbits (s : State) : (resetTail s).nbits = s.nbits := rfl
@[simp] theorem resetTail_msg (s : State) : (resetTail s).msg = s.msg := rfl
@[simp] theorem resetTail_rsp (s : State) : (resetTail s).rsp = s.rsp := rfl
@[simp] theorem resetTail_cfg (s : State) : (resetTail s).cfg = s.cfg := rfl
@[simp] theorem resetTail_readCredit (s : State) : (resetTail s).readCredit = 0 := rfl
@[simp] theorem resetTail_sched (s : State) : (resetTail s).sched = s.sched := rfl
@[simp] theorem resetTail_cmds (s : State) : (resetTail s).cmds = s.cmds := rfl
@[simp] theorem resetTail_freeCtr (s : State) : (resetTail s).freeCtr = s.freeCtr := rfl
@[simp] theorem resetTail_boots (s : State) : (resetTail s).boots = s.boots := rfl

/-! ## `pushBit` -/

@[simp] theorem pushBit_mem (v : Bit) (s : State) : (pushBit v s).mem = s.mem := rfl
@[simp] theorem pushBit_head (v : Bit) (s : State) : (pushBit v s).head = s.head := rfl
@[simp] theorem pushBit_tail (v : Bit) (s : State) : (pushBit v s).tail = s.tail := rfl
@[simp] theorem pushBit_rphase (v : Bit) (s : State) : (pushBit v s).rphase = s.rphase := rfl
@[simp] theorem pushBit_lvl (v : Bit) (s : State) : (pushBit v s).lvl = s.lvl := rfl
@[simp] theorem pushBit_run (v : Bit) (s : State) : (pushBit v s).run = s.run := rfl
@[simp] theorem pushBit_nbits (v : Bit) (s : State) : (pushBit v s).nbits = s.nbits + 1 := rfl
@[simp] theorem pushBit_msg (v : Bit) (s : State) :
    (pushBit v s).msg = setFrameBit s.msg s.nbits v := rfl
@[simp] theorem pushBit_rsp (v : Bit) (s : State) : (pushBit v s).rsp = s.rsp := rfl
@[simp] theorem pushBit_cfg (v : Bit) (s : State) : (pushBit v s).cfg = s.cfg := rfl
@[simp] theorem pushBit_readCredit (v : Bit) (s : State) :
    (pushBit v s).readCredit = s.readCredit := rfl
@[simp] theorem pushBit_sched (v : Bit) (s : State) : (pushBit v s).sched = s.sched := rfl
@[simp] theorem pushBit_cmds (v : Bit) (s : State) : (pushBit v s).cmds = s.cmds := rfl
@[simp] theorem pushBit_freeCtr (v : Bit) (s : State) : (pushBit v s).freeCtr = s.freeCtr := rfl
@[simp] theorem pushBit_boots (v : Bit) (s : State) : (pushBit v s).boots = s.boots := rfl

/-! ## `clearBits` -/

@[simp] theorem clearBits_mem (s : State) : (clearBits s).mem = s.mem := rfl
@[simp] theorem clearBits_head (s : State) : (clearBits s).head = s.head := rfl
@[simp] theorem clearBits_tail (s : State) : (clearBits s).tail = s.tail := rfl
@[simp] theorem clearBits_rphase (s : State) : (clearBits s).rphase = s.rphase := rfl
@[simp] theorem clearBits_lvl (s : State) : (clearBits s).lvl = s.lvl := rfl
@[simp] theorem clearBits_run (s : State) : (clearBits s).run = s.run := rfl
@[simp] theorem clearBits_nbits (s : State) : (clearBits s).nbits = 0 := rfl
@[simp] theorem clearBits_msg (s : State) : (clearBits s).msg = zeroFrame s.cfg := rfl
@[simp] theorem clearBits_rsp (s : State) : (clearBits s).rsp = s.rsp := rfl
@[simp] theorem clearBits_cfg (s : State) : (clearBits s).cfg = s.cfg := rfl
@[simp] theorem clearBits_readCredit (s : State) : (clearBits s).readCredit = s.readCredit := rfl
@[simp] theorem clearBits_sched (s : State) : (clearBits s).sched = s.sched := rfl
@[simp] theorem clearBits_cmds (s : State) : (clearBits s).cmds = s.cmds := rfl
@[simp] theorem clearBits_freeCtr (s : State) : (clearBits s).freeCtr = s.freeCtr := rfl
@[simp] theorem clearBits_boots (s : State) : (clearBits s).boots = s.boots := rfl

/-! ## `continueRun` -/

@[simp] theorem continueRun_mem (s : State) : (continueRun s).mem = s.mem := rfl
@[simp] theorem continueRun_head (s : State) : (continueRun s).head = s.head := rfl
@[simp] theorem continueRun_tail (s : State) : (continueRun s).tail = s.tail := rfl
@[simp] theorem continueRun_rphase (s : State) : (continueRun s).rphase = s.rphase := rfl
@[simp] theorem continueRun_lvl (s : State) : (continueRun s).lvl = s.lvl := rfl
@[simp] theorem continueRun_run (s : State) :
    (continueRun s).run = min (s.run + 1) (s.cfg.maxSamples + 1) := rfl
@[simp] theorem continueRun_nbits (s : State) : (continueRun s).nbits = s.nbits := rfl
@[simp] theorem continueRun_msg (s : State) : (continueRun s).msg = s.msg := rfl
@[simp] theorem continueRun_rsp (s : State) : (continueRun s).rsp = s.rsp := rfl
@[simp] theorem continueRun_cfg (s : State) : (continueRun s).cfg = s.cfg := rfl
@[simp] theorem continueRun_readCredit (s : State) :
    (continueRun s).readCredit = s.readCredit := rfl
@[simp] theorem continueRun_sched (s : State) : (continueRun s).sched = s.sched := rfl
@[simp] theorem continueRun_cmds (s : State) : (continueRun s).cmds = s.cmds := rfl
@[simp] theorem continueRun_freeCtr (s : State) : (continueRun s).freeCtr = s.freeCtr := rfl
@[simp] theorem continueRun_boots (s : State) : (continueRun s).boots = s.boots := rfl

/-! ## `startRun` -/

@[simp] theorem startRun_mem (b : Bit) (s : State) : (startRun b s).mem = s.mem := rfl
@[simp] theorem startRun_head (b : Bit) (s : State) : (startRun b s).head = s.head := rfl
@[simp] theorem startRun_tail (b : Bit) (s : State) : (startRun b s).tail = s.tail := rfl
@[simp] theorem startRun_rphase (b : Bit) (s : State) : (startRun b s).rphase = s.rphase := rfl
@[simp] theorem startRun_lvl (b : Bit) (s : State) : (startRun b s).lvl = b := rfl
@[simp] theorem startRun_run (b : Bit) (s : State) : (startRun b s).run = 1 := rfl
@[simp] theorem startRun_nbits (b : Bit) (s : State) : (startRun b s).nbits = s.nbits := rfl
@[simp] theorem startRun_msg (b : Bit) (s : State) : (startRun b s).msg = s.msg := rfl
@[simp] theorem startRun_rsp (b : Bit) (s : State) : (startRun b s).rsp = s.rsp := rfl
@[simp] theorem startRun_cfg (b : Bit) (s : State) : (startRun b s).cfg = s.cfg := rfl
@[simp] theorem startRun_readCredit (b : Bit) (s : State) :
    (startRun b s).readCredit = s.readCredit := rfl
@[simp] theorem startRun_sched (b : Bit) (s : State) : (startRun b s).sched = s.sched := rfl
@[simp] theorem startRun_cmds (b : Bit) (s : State) : (startRun b s).cmds = s.cmds := rfl
@[simp] theorem startRun_freeCtr (b : Bit) (s : State) : (startRun b s).freeCtr = s.freeCtr := rfl
@[simp] theorem startRun_boots (b : Bit) (s : State) : (startRun b s).boots = s.boots := rfl

/-! ## `clearDemod` -/

@[simp] theorem clearDemod_mem (s : State) : (clearDemod s).mem = s.mem := rfl
@[simp] theorem clearDemod_head (s : State) : (clearDemod s).head = s.head := rfl
@[simp] theorem clearDemod_tail (s : State) : (clearDemod s).tail = s.tail := rfl
@[simp] theorem clearDemod_rphase (s : State) : (clearDemod s).rphase = s.rphase := rfl
@[simp] theorem clearDemod_lvl (s : State) : (clearDemod s).lvl = false := rfl
@[simp] theorem clearDemod_run (s : State) : (clearDemod s).run = 0 := rfl
@[simp] theorem clearDemod_nbits (s : State) : (clearDemod s).nbits = 0 := rfl
@[simp] theorem clearDemod_msg (s : State) : (clearDemod s).msg = zeroFrame s.cfg := rfl
@[simp] theorem clearDemod_rsp (s : State) : (clearDemod s).rsp = s.rsp := rfl
@[simp] theorem clearDemod_cfg (s : State) : (clearDemod s).cfg = s.cfg := rfl
@[simp] theorem clearDemod_readCredit (s : State) : (clearDemod s).readCredit = s.readCredit := rfl
@[simp] theorem clearDemod_sched (s : State) : (clearDemod s).sched = s.sched := rfl
@[simp] theorem clearDemod_cmds (s : State) : (clearDemod s).cmds = s.cmds := rfl
@[simp] theorem clearDemod_freeCtr (s : State) : (clearDemod s).freeCtr = s.freeCtr := rfl
@[simp] theorem clearDemod_boots (s : State) : (clearDemod s).boots = s.boots := rfl

/-! ## `assertRst` -/

@[simp] theorem assertRst_mem (s : State) : (assertRst s).mem = [] := rfl
@[simp] theorem assertRst_head (s : State) : (assertRst s).head = 0 := rfl
@[simp] theorem assertRst_tail (s : State) : (assertRst s).tail = 0 := rfl
@[simp] theorem assertRst_rphase (s : State) : (assertRst s).rphase = .idle := rfl
@[simp] theorem assertRst_lvl (s : State) : (assertRst s).lvl = false := rfl
@[simp] theorem assertRst_run (s : State) : (assertRst s).run = 0 := rfl
@[simp] theorem assertRst_nbits (s : State) : (assertRst s).nbits = 0 := rfl
@[simp] theorem assertRst_msg (s : State) :
    (assertRst s).msg = List.replicate s.cfg.msgBytes 0x00#8 := rfl
@[simp] theorem assertRst_rsp (s : State) : (assertRst s).rsp = none := rfl
@[simp] theorem assertRst_cfg (s : State) : (assertRst s).cfg = s.cfg := rfl
@[simp] theorem assertRst_readCredit (s : State) : (assertRst s).readCredit = 0 := rfl
@[simp] theorem assertRst_sched (s : State) : (assertRst s).sched = s.sched := rfl
@[simp] theorem assertRst_cmds (s : State) : (assertRst s).cmds = s.cmds := rfl
@[simp] theorem assertRst_freeCtr (s : State) : (assertRst s).freeCtr = s.freeCtr := rfl
@[simp] theorem assertRst_boots (s : State) : (assertRst s).boots = s.boots + 1 := rfl

/-! ## the state after reset -/

@[simp] theorem State.resetWith_mem (c : Config) : (State.resetWith c).mem = [] := rfl
@[simp] theorem State.resetWith_head (c : Config) : (State.resetWith c).head = 0 := rfl
@[simp] theorem State.resetWith_tail (c : Config) : (State.resetWith c).tail = 0 := rfl
@[simp] theorem State.resetWith_rphase (c : Config) : (State.resetWith c).rphase = .idle := rfl
@[simp] theorem State.resetWith_lvl (c : Config) : (State.resetWith c).lvl = false := rfl
@[simp] theorem State.resetWith_run (c : Config) : (State.resetWith c).run = 0 := rfl
@[simp] theorem State.resetWith_nbits (c : Config) : (State.resetWith c).nbits = 0 := rfl
@[simp] theorem State.resetWith_msg (c : Config) : (State.resetWith c).msg = List.replicate c.msgBytes 0x00#8 := rfl
@[simp] theorem State.resetWith_rsp (c : Config) : (State.resetWith c).rsp = none := rfl
@[simp] theorem State.resetWith_cfg (c : Config) : (State.resetWith c).cfg = c := rfl
@[simp] theorem State.resetWith_readCredit (c : Config) : (State.resetWith c).readCredit = 0 := rfl
@[simp] theorem State.resetWith_sched (c : Config) : (State.resetWith c).sched = [] := rfl
@[simp] theorem State.resetWith_cmds (c : Config) : (State.resetWith c).cmds = [] := rfl
@[simp] theorem State.resetWith_freeCtr (c : Config) : (State.resetWith c).freeCtr = 0 := rfl
@[simp] theorem State.resetWith_boots (c : Config) : (State.resetWith c).boots = 0 := rfl

end Sys2Proof.Machine
end

