-- ==== Sys2Proof/Laws/Memory.lean ====
section
/-! SUPPORT. The laws of the sample memory and of the index arithmetic: read after write, and that every
operation keeps the canonical form. -/

namespace Sys2Proof.Machine

@[simp] theorem Memory.lookup_store_same (m : Memory) (i : Nat) (b : Bit) :
    Memory.lookup (Memory.store m i b) i = some b := by
  induction m with
  | nil => simp [Memory.store, Memory.lookup]
  | cons c m ih =>
    obtain ⟨a, v⟩ := c
    unfold Memory.store
    split
    · simp [Memory.lookup]
    · split
      · simp [Memory.lookup, *]
      · simp [Memory.lookup, *]

theorem Memory.lookup_store_of_ne (m : Memory) {i j : Nat} (b : Bit) (h : j ≠ i) :
    Memory.lookup (Memory.store m i b) j = Memory.lookup m j := by
  induction m with
  | nil => simp [Memory.store, Memory.lookup, h]
  | cons c m ih =>
    obtain ⟨a, v⟩ := c
    unfold Memory.store
    split
    · simp [Memory.lookup, h]
    · split
      · next hia => simp [Memory.lookup, ← hia, h]
      · simp [Memory.lookup, ih]

/-- The indices listed after a write: the old ones and the one written. -/
theorem Memory.mem_store_keys (m : Memory) (i : Nat) (b : Bit) (a : Nat) :
    a ∈ (Memory.store m i b).map Prod.fst ↔ a = i ∨ a ∈ m.map Prod.fst := by
  induction m with
  | nil => simp [Memory.store]
  | cons c m ih =>
    obtain ⟨x, v⟩ := c
    unfold Memory.store
    split
    · simp
    · split
      · next hia => subst hia; simp
      · simp only [List.map_cons, List.mem_cons, ih]; tauto

/-- A write keeps the canonical form. -/
theorem Memory.store_wf (m : Memory) (i : Nat) (b : Bit) (h : Memory.wf m) :
    Memory.wf (Memory.store m i b) := by
  induction m with
  | nil => simp [Memory.wf, Memory.store]
  | cons c m ih =>
    obtain ⟨x, v⟩ := c
    simp only [Memory.wf, List.map_cons, List.pairwise_cons] at h ih ⊢
    unfold Memory.store
    split
    · next hlt =>
      simp only [List.map_cons, List.pairwise_cons, List.mem_cons, forall_eq_or_imp]
      exact ⟨⟨hlt, fun a ha => lt_trans hlt (h.1 a ha)⟩, h.1, h.2⟩
    · split
      · simpa using h
      · next hle hne =>
        simp only [List.map_cons, List.pairwise_cons]
        refine ⟨fun a ha => ?_, ih h.2⟩
        rcases (Memory.mem_store_keys m i b a).1 ha with rfl | ha
        · omega
        · exact h.1 a ha

/-- The memory after reset is in canonical form. -/
theorem Memory.wf_nil : Memory.wf ([] : Memory) := by simp [Memory.wf]

/-- A cell is listed exactly when its index is among the keys. -/
theorem Memory.lookup_isSome (m : Memory) (i : Nat) :
    (Memory.lookup m i).isSome = true ↔ i ∈ m.map Prod.fst := by
  induction m with
  | nil => simp [Memory.lookup]
  | cons c m ih =>
    obtain ⟨a, v⟩ := c
    by_cases h : i = a <;> simp [Memory.lookup, h, ih]

/-- What the producer's write does to every cell (R110, R133). -/
theorem sampleAt_writeSample (b : Bit) (s : State) (a : Nat) :
    sampleAt (writeSample b s) a = if a = s.head then b else sampleAt s a := by
  by_cases h : a = s.head
  · simp [sampleAt, h]
  · simp [sampleAt, h, Memory.lookup_store_of_ne]

/-- What the producer's write does to the cells that were written. -/
theorem written_writeSample (b : Bit) (s : State) (a : Nat) :
    written (writeSample b s) a = (decide (a = s.head) || written s a) := by
  by_cases h : a = s.head
  · simp [written, h]
  · simp [written, h, Memory.lookup_store_of_ne]

/-- Cells read alike where memory and boot count are alike. -/
theorem sampleAt_congr {s t : State} (hm : t.mem = s.mem) (hb : t.boots = s.boots) (a : Nat) :
    sampleAt t a = sampleAt s a := by
  simp [sampleAt, hm, hb]

theorem indexInc_lt {n : Nat} (h : 0 < n) (i : Nat) : indexInc n i < n := Nat.mod_lt _ h

theorem indexDiff_lt {n : Nat} (h : 0 < n) (a b : Nat) : indexDiff n a b < n := by
  unfold indexDiff
  have h1 := Int.emod_nonneg ((a : Int) - b) (b := (n : Int)) (by omega)
  have h2 := Int.emod_lt_of_pos ((a : Int) - b) (b := (n : Int)) (by omega)
  omega

/-- Incrementing an index in range: one more, or 0 at the end. -/
theorem indexInc_of_lt {n i : Nat} (h : i < n) :
    indexInc n i = if i + 1 = n then 0 else i + 1 := by
  unfold indexInc
  split
  · next h1 => simp [h1]
  · exact Nat.mod_eq_of_lt (by omega)

/-- Adding a distance below the capacity to an index in range, by cases. -/
theorem add_mod_cases {n t j : Nat} (ht : t < n) (hj : j < n) :
    (t + j) % n = if t + j < n then t + j else t + j - n := by
  split
  · next h => exact Nat.mod_eq_of_lt h
  · rw [Nat.mod_eq_sub_mod (by omega), Nat.mod_eq_of_lt (by omega)]

end Sys2Proof.Machine
end

