-- ==== Sys2Proof/Laws/Ops.lean ====
section
/-! SUPPORT. What each shared operation and each turn can do, said once. -/

namespace Sys2Proof.Machine

/-! ## The demodulator's step on one sample -/

/-- Everything one sample can do to the demodulator (R130 to R136): the run goes on; or it is complete
and its level is no pulse level; or it is a desync; or it gives a bit that is stored; or a bit that is
dropped because the buffer is full. -/
theorem takeLevel_cases (b : Bit) (s : State) :
    (b = s.lvl ∧ takeLevel b s = continueRun s) ∨
    (b ≠ s.lvl ∧ s.cfg.pulseLevel s.lvl = false ∧ takeLevel b s = startRun b s) ∨
    (b ≠ s.lvl ∧ s.cfg.pulseLevel s.lvl = true ∧ classify s.cfg s.run = .desync ∧
      takeLevel b s = startRun b (clearBits s)) ∨
    (∃ v, b ≠ s.lvl ∧ s.cfg.pulseLevel s.lvl = true ∧ classify s.cfg s.run = .bit v ∧
      s.nbits < s.cfg.msgBits ∧
      takeLevel b s = startRun b (pushBit v s)) ∨
    (∃ v, b ≠ s.lvl ∧ s.cfg.pulseLevel s.lvl = true ∧ classify s.cfg s.run = .bit v ∧
      ¬ s.nbits < s.cfg.msgBits ∧ takeLevel b s = startRun b s) := by
  by_cases hb : b = s.lvl
  · exact .inl ⟨hb, by simp [takeLevel, hb]⟩
  right
  by_cases hp : s.cfg.pulseLevel s.lvl = true
  · right
    cases hc : classify s.cfg s.run with
    | desync => exact .inl ⟨hb, hp, rfl, by simp [takeLevel, hb, completeRun, hp, hc, applyMeaning]⟩
    | bit v =>
      right
      by_cases hn : s.nbits < s.cfg.msgBits
      · exact .inl ⟨v, hb, hp, rfl, hn,
          by simp [takeLevel, hb, completeRun, hp, hc, applyMeaning, storeBit, hn]⟩
      · exact .inr ⟨v, hb, hp, rfl, hn,
          by simp [takeLevel, hb, completeRun, hp, hc, applyMeaning, storeBit, hn]⟩
  · have hp' : s.cfg.pulseLevel s.lvl = false := by simpa using hp
    exact .inl ⟨hb, hp', by simp [takeLevel, hb, completeRun, hp']⟩

/-- One sample leaves everything outside the demodulator alone (R23). -/
theorem takeLevel_outside (b : Bit) (s : State) :
    (takeLevel b s).mem = s.mem ∧ (takeLevel b s).head = s.head ∧ (takeLevel b s).tail = s.tail ∧
      (takeLevel b s).rphase = s.rphase ∧ (takeLevel b s).rsp = s.rsp ∧ (takeLevel b s).cfg = s.cfg ∧
      (takeLevel b s).readCredit = s.readCredit ∧ (takeLevel b s).sched = s.sched ∧
      (takeLevel b s).cmds = s.cmds ∧ (takeLevel b s).freeCtr = s.freeCtr ∧
      (takeLevel b s).boots = s.boots := by
  rcases takeLevel_cases b s with ⟨-, h⟩ | ⟨-, -, h⟩ | ⟨-, -, -, h⟩ | ⟨v, -, -, -, -, h⟩ |
    ⟨v, -, -, -, -, h⟩ <;> rw [h] <;> simp

@[simp] theorem takeLevel_mem (b : Bit) (s : State) : (takeLevel b s).mem = s.mem :=
  (takeLevel_outside b s).1

@[simp] theorem takeLevel_head (b : Bit) (s : State) : (takeLevel b s).head = s.head :=
  (takeLevel_outside b s).2.1

@[simp] theorem takeLevel_tail (b : Bit) (s : State) : (takeLevel b s).tail = s.tail :=
  (takeLevel_outside b s).2.2.1

@[simp] theorem takeLevel_rphase (b : Bit) (s : State) : (takeLevel b s).rphase = s.rphase :=
  (takeLevel_outside b s).2.2.2.1

@[simp] theorem takeLevel_rsp (b : Bit) (s : State) : (takeLevel b s).rsp = s.rsp :=
  (takeLevel_outside b s).2.2.2.2.1

@[simp] theorem takeLevel_cfg (b : Bit) (s : State) : (takeLevel b s).cfg = s.cfg :=
  (takeLevel_outside b s).2.2.2.2.2.1

@[simp] theorem takeLevel_readCredit (b : Bit) (s : State) :
    (takeLevel b s).readCredit = s.readCredit :=
  (takeLevel_outside b s).2.2.2.2.2.2.1

@[simp] theorem takeLevel_sched (b : Bit) (s : State) : (takeLevel b s).sched = s.sched :=
  (takeLevel_outside b s).2.2.2.2.2.2.2.1

@[simp] theorem takeLevel_cmds (b : Bit) (s : State) : (takeLevel b s).cmds = s.cmds :=
  (takeLevel_outside b s).2.2.2.2.2.2.2.2.1

@[simp] theorem takeLevel_freeCtr (b : Bit) (s : State) : (takeLevel b s).freeCtr = s.freeCtr :=
  (takeLevel_outside b s).2.2.2.2.2.2.2.2.2.1

@[simp] theorem takeLevel_boots (b : Bit) (s : State) : (takeLevel b s).boots = s.boots :=
  (takeLevel_outside b s).2.2.2.2.2.2.2.2.2.2

/-- The level after a sample is that sample (R130). -/
@[simp] theorem takeLevel_lvl (b : Bit) (s : State) : (takeLevel b s).lvl = b := by
  rcases takeLevel_cases b s with ⟨hb, h⟩ | ⟨-, -, h⟩ | ⟨-, -, -, h⟩ | ⟨v, -, -, -, -, h⟩ |
    ⟨v, -, -, -, -, h⟩ <;> rw [h] <;> simp [*]

/-! ## The meanings, one equation each -/

@[simp] theorem exec_rbWrite (b : Bit) (s : State) : exec (.rbWrite b) s = .next (writeSample b s) := rfl

@[simp] theorem exec_rbAvail (s : State) : exec .rbAvail s =
    .next (respond (driveCount (bufferedLength s)) (grantCredit (bufferedLength s) s)) := rfl

theorem exec_rbRead_available {s : State} (h : somethingAvailable s = true) : exec .rbRead s =
    .next (respond (driveBit (sampleAt s s.tail)) (takeSample s)) := by
  simp [exec, execRbRead, h]

theorem exec_rbRead_nothing {s : State} (h : somethingAvailable s = false) :
    exec .rbRead s = .refused .readNothingAvailable := by
  simp [exec, execRbRead, h]

theorem exec_rbReset_idle {s : State} (h : s.rphase = .idle) :
    exec .rbReset s = .next (resetHead s) := by
  simp [exec, execRbReset, h]

theorem exec_rbReset_headCleared {s : State} (h : s.rphase = .headCleared) :
    exec .rbReset s = .next (respond id (resetTail s)) := by
  simp [exec, execRbReset, h]

@[simp] theorem exec_dmProc (b : Bit) (s : State) :
    exec (.dmProc b) s = .next (respond id (takeLevel b s)) := rfl

@[simp] theorem exec_dmRxlen (s : State) :
    exec .dmRxlen s = .next (respond (driveCount s.nbits) s) := rfl

@[simp] theorem exec_dmGetmsg (s : State) :
    exec .dmGetmsg s = .next (respond (driveFrame s.msg) s) := rfl

@[simp] theorem exec_dmReset (s : State) : exec .dmReset s = .next (respond id (clearDemod s)) := rfl

@[simp] theorem exec_fdValidate (F : Frame) (s : State) :
    exec (.fdValidate F) s = .next (respond (driveOk (frameValid s.cfg F)) s) := rfl

@[simp] theorem exec_fdDecode (F : Frame) (s : State) :
    exec (.fdDecode F) s = .next (respond (driveFields (sensorReading s.cfg F)) s) := rfl

@[simp] theorem exec_fdVdec (F : Frame) (s : State) : exec (.fdVdec F) s =
    .next (respond (fun r => driveFields (validatedReading s.cfg F) (driveOk (frameValid s.cfg F) r))
      s) := rfl

@[simp] theorem exec_fdRaw (F : Frame) (s : State) :
    exec (.fdRaw F) s = .next (respond (driveFrame (operandBytes s.cfg F)) s) := rfl

/-- No operation is refused as a reserved byte: such a byte is none. -/
theorem exec_ne_reserved (i : Instr) (s : State) (b : Byte) :
    exec i s ≠ .refused (.reservedCommand b) := by
  cases i with
  | rbRead => change execRbRead s ≠ _; unfold execRbRead; split <;> simp
  | rbReset => change execRbReset s ≠ _; unfold execRbReset; split <;> simp
  | _ => simp

/-- No operation touches the commands still to come: they are an input (R36). -/
theorem exec_cmds {i : Instr} {s t : State} (h : exec i s = .next t) : t.cmds = s.cmds := by
  cases i with
  | rbRead => change execRbRead s = _ at h; unfold execRbRead at h; split at h <;> simp at h; subst h; rfl
  | rbReset =>
    change execRbReset s = _ at h; unfold execRbReset at h; split at h <;> simp at h <;> subst h <;> rfl
  | dmProc b => simp at h; subst h; simp [respond]
  | _ => simp at h; subst h; rfl

/-- Before a command drives anything, `rsp_illegal` is 0 (R88). -/
@[simp] theorem undriven_illegal (c : Config) (k : Nat) : (undriven c k).illegal = false := rfl

/-! ## Sequences -/

@[simp] theorem andThen_next {α β : Type} (a : α) (k : α → Host.Outcome β Fault Refusal) :
    andThen (.next a) k = k a := rfl

@[simp] theorem andThen_refused {α β : Type} (r : Refusal) (k : α → Host.Outcome β Fault Refusal) :
    andThen (.refused r) k = .refused r := rfl

/-- A sequence that answers a next state has a first part that does. -/
theorem andThen_eq_next {α β : Type} {o : Host.Outcome α Fault Refusal}
    {k : α → Host.Outcome β Fault Refusal} {c : β} (h : andThen o k = .next c) :
    ∃ a, o = .next a ∧ k a = .next c := by
  cases o with
  | next a => exact ⟨a, rfl, h⟩
  | fault r => cases r
  | refused r => cases h

/-! ## The turns -/

/-- The handshake of R11 in terms of the inputs: `cmd_valid` and `cmd_ready` are both 1 exactly where the
consumer is next, stands between commands, and has one to present. -/
theorem handshake_iff (s : State) : (cmdValid s = true ∧ cmdReady s = true) ↔
    ∃ rest w ws, s.sched = .consumer :: rest ∧ s.rphase = .idle ∧ s.cmds = w :: ws := by
  unfold cmdValid cmdReady
  cases hs : s.sched with
  | nil => simp
  | cons t rest => cases t <;> cases hc : s.cmds <;> simp

/-- Everything a step can be (R60 to R62, R32): nothing to do; a tick; the reset pin; the second step of
an `RB.RESET`; no command presented; a command that decodes; a reserved byte. -/
theorem step_cases (s : State) :
    (s.sched = [] ∧ step s = .next (quiet s)) ∨
    (∃ b rest, s.sched = .tick b :: rest ∧
      step s = exec (.rbWrite b) (startTurn rest s)) ∨
    (∃ rest, s.sched = .rst :: rest ∧ step s = .next (assertRst (startTurn rest s))) ∨
    (∃ rest, s.sched = .consumer :: rest ∧ s.rphase = .headCleared ∧
      step s = exec .rbReset (startTurn rest s)) ∨
    (∃ rest, s.sched = .consumer :: rest ∧ s.rphase = .idle ∧ s.cmds = [] ∧
      step s = .next (startTurn rest s)) ∨
    (∃ rest w ws i, s.sched = .consumer :: rest ∧ s.rphase = .idle ∧ s.cmds = w :: ws ∧
      decodeCommand s.cfg w = .ok i ∧
      step s = exec i (setCommands ws (startTurn rest s))) ∨
    (∃ rest w ws e, s.sched = .consumer :: rest ∧ s.rphase = .idle ∧ s.cmds = w :: ws ∧
      decodeCommand s.cfg w = .error e ∧
      step s = .refused (.reservedCommand w.cmd)) := by
  cases hs : s.sched with
  | nil => exact .inl ⟨rfl, by simp [step, nextTurn, hs]⟩
  | cons t rest =>
    right
    cases t with
    | tick b => exact .inl ⟨b, rest, rfl, by simp [step, nextTurn, hs, takeTurn, producerTurn, decodeSample]⟩
    | rst => exact .inr (.inl ⟨rest, rfl, by simp [step, nextTurn, hs, takeTurn]⟩)
    | consumer =>
      right; right
      cases hp : s.rphase with
      | headCleared =>
        exact .inl ⟨rest, rfl, rfl, by simp [step, nextTurn, hs, takeTurn, consumerTurn, hp]⟩
      | idle =>
        right
        cases hc : s.cmds with
        | nil =>
          exact .inl ⟨rest, rfl, rfl, rfl, by
            simp [step, nextTurn, hs, takeTurn, consumerTurn, hp, acceptCommand, hc]⟩
        | cons w ws =>
          right
          cases hd : decodeCommand s.cfg w with
          | ok i =>
            exact .inl ⟨rest, w, ws, i, rfl, rfl, rfl, hd, by
              simp [step, nextTurn, hs, takeTurn, consumerTurn, hp, acceptCommand, hc, runCommand, hd]⟩
          | error e =>
            exact .inr ⟨rest, w, ws, e, rfl, rfl, rfl, hd, by
              rw [Laws.decodeCommand_error hd] at hd
              simp [step, nextTurn, hs, takeTurn, consumerTurn, hp, acceptCommand, hc, runCommand, hd]⟩

/-- Everything the hardware rendering of a turn can be: the model's step, or, where that refuses a
reserved byte, the answer of R88. -/
theorem hardwareTurn_cases (s : State) :
    ((∀ b, step s ≠ .refused (.reservedCommand b)) ∧ hardwareTurn s = step s) ∨
    (∃ rest w ws e, s.sched = .consumer :: rest ∧ s.rphase = .idle ∧ s.cmds = w :: ws ∧
      decodeCommand s.cfg w = .error e ∧ step s = .refused (.reservedCommand w.cmd) ∧
      hardwareTurn s = .next (answerIllegal (setCommands ws (startTurn rest s)))) := by
  have key : ∀ o, step s = o → (∀ b, o ≠ .refused (.reservedCommand b)) → hardwareTurn s = o := by
    intro o ho hn
    have ho' : nextTurn s = o := ho
    unfold hardwareTurn
    rw [ho']
    cases o with
    | next t => rfl
    | fault r => rfl
    | refused r => cases r <;> first | rfl | exact absurd rfl (hn _)
  by_cases h : ∃ b, step s = .refused (.reservedCommand b)
  · right
    obtain ⟨b, hb⟩ := h
    rcases step_cases s with ⟨-, e⟩ | ⟨v, r, -, e⟩ | ⟨r, -, e⟩ | ⟨r, -, -, e⟩ | ⟨r, -, -, -, e⟩ |
      ⟨r, w, ws, i, -, -, -, -, e⟩ | ⟨r, w, ws, e', h1, h2, h3, h4, e⟩
    · rw [e] at hb; cases hb
    · rw [e] at hb; exact absurd hb (exec_ne_reserved _ _ _)
    · rw [e] at hb; cases hb
    · rw [e] at hb; exact absurd hb (exec_ne_reserved _ _ _)
    · rw [e] at hb; cases hb
    · rw [e] at hb; exact absurd hb (exec_ne_reserved _ _ _)
    · refine ⟨r, w, ws, e', h1, h2, h3, h4, e, ?_⟩
      have he : nextTurn s = _ := e
      unfold hardwareTurn
      rw [he]
      simp [h1, h3]
  · have hn : ∀ b, step s ≠ .refused (.reservedCommand b) := fun b hb => h ⟨b, hb⟩
    exact .inl ⟨hn, key _ rfl hn⟩

end Sys2Proof.Machine
end

