-- ==== Sys2Proof/Tests/Slice0.lean ====
section
/-! SUPPORT. Tests: words written out from the encoding tables, ill-formed terms, one-step vectors of
`95_test_vectors.md`, and a state that meets the hypotheses of each statement. -/

namespace Sys2Proof.Tests
open Sys2Proof Sys2Proof.Machine

/-! ## The test configurations of `95_test_vectors.md` section 0 -/

/-- `FIELDS_T`. -/
def fieldsT : SixFields FieldSpec :=
  { rain := ⟨16, 16, 3, 0⟩, temperature := ⟨32, 12, 1, -400⟩, windDirection := ⟨44, 9, 1, 0⟩,
    windAverage := ⟨56, 8, 1, 0⟩, windGust := ⟨64, 8, 1, 0⟩, humidity := ⟨72, 8, 1, 0⟩ }

/-- `CFG_T` with `SAMPLE_LEN = n`; its fields are those of the smallest configuration. -/
def cfgT (n : Nat) : Config :=
  { Config.smallest with
    sampleLen := n, minSamples := 2, splitSamples := 5, maxSamples := 9, pulseLow := false, chk := .sum8 }

/-- `CFG_T16`. -/
def cfgT16 : Config := { cfgT 2048 with msgBytes := 16, fields := fieldsT }

/-- The frame `F0` of section 2.3. -/
def frame0 : Frame :=
  [0xFF, 0xD4, 0x01, 0x2C, 0x38, 0x45, 0x80, 0x0C, 0x15, 0x3E, 0x00, 0x00, 0x00, 0x00, 0x00, 0x5C]

/-- `F0` with bit 4 of byte 4 flipped (V-FD-2). -/
def frame1 : Frame := frame0.set 4 0x28

def t8 : State := State.resetWith (cfgT 8)

def t16 : State := State.resetWith cfgT16

/-- A machine in use: two unread samples, a partial frame, a count in hand. -/
def busy : State :=
  { t8 with mem := [(0, true), (1, false), (2, true)], head := 3, tail := 1, readCredit := 2, lvl := true,
            run := 7, nbits := 3, msg := [0xA0, 0x00] }

/-- Does the outcome give a next state with property `p`? -/
def gives {α : Type} (o : Host.Outcome α Fault Refusal) (p : α → Bool) : Bool :=
  match o with
  | .next s => p s
  | .fault _ => false
  | .refused _ => false

theorem test_cfgT_admitted : (cfgT 8).admitted = true := by decide

theorem test_cfgT16_admitted : cfgT16.admitted = true := by decide

/-! ## Words written out from R82, R85 decode -/

theorem test_word_rbWrite : decode (cfgT 8) (.sample true) = .ok (.rbWrite true) := by decide
theorem test_word_rbAvail : decode (cfgT 8) (.command ⟨0b00000000, 7⟩) = .ok .rbAvail := by decide
theorem test_word_rbRead : decode (cfgT 8) (.command ⟨0b00010000, 0⟩) = .ok .rbRead := by decide
theorem test_word_rbReset : decode (cfgT 8) (.command ⟨0b00100000, 0⟩) = .ok .rbReset := by decide
theorem test_word_dmProc0 : decode (cfgT 8) (.command ⟨0b01000000, 0⟩) = .ok (.dmProc false) := by decide
theorem test_word_dmProc1 : decode (cfgT 8) (.command ⟨0b01000001, 0⟩) = .ok (.dmProc true) := by decide
theorem test_word_dmRxlen : decode (cfgT 8) (.command ⟨0b01010000, 0⟩) = .ok .dmRxlen := by decide
theorem test_word_dmGetmsg : decode (cfgT 8) (.command ⟨0b01100000, 0⟩) = .ok .dmGetmsg := by decide
theorem test_word_dmReset : decode (cfgT 8) (.command ⟨0b01110000, 0⟩) = .ok .dmReset := by decide

/-- `cmd_frame = 0xA53C`: `F[0]` is the top byte (R83). -/
theorem test_word_fdValidate :
    decode (cfgT 8) (.command ⟨0b10000000, 0xA53C⟩) = .ok (.fdValidate [0xA5, 0x3C]) := by decide

theorem test_word_fdDecode :
    decode (cfgT 8) (.command ⟨0b10010000, 0x0102⟩) = .ok (.fdDecode [0x01, 0x02]) := by decide

theorem test_word_fdVdec :
    decode (cfgT 8) (.command ⟨0b10100000, 0xFF00⟩) = .ok (.fdVdec [0xFF, 0x00]) := by decide

theorem test_word_fdRaw :
    decode (cfgT 8) (.command ⟨0b10110000, 0x00FF⟩) = .ok (.fdRaw [0x00, 0xFF]) := by decide

/-- The reserved bytes of P7 are rejected by name. -/
theorem test_word_reserved : ([0x30, 0x42, 0xC0, 0x11] : List Byte).all
    (fun c => decide (decode (cfgT 8) (.command ⟨c, 0⟩) = .error (.reserved c))) = true := by decide

theorem test_encode_fdRaw : encode (.fdRaw [0xA5, 0x3C]) = .command ⟨0xB0, 0xA53C⟩ := by decide

/-- The words of `spec/opcode_table.json`, on the block as built. -/
theorem test_table_words :
    decodeTableWord 1 1 = some (.rbWrite true) ∧ decodeTableWord 8 0x00 = some .rbAvail ∧
    decodeTableWord 8 0x41 = some (.dmProc true) ∧ decodeTableWord 8 0x01 = none := by decide

/-! ## Ill-formed terms are refused, one for each check -/

theorem test_illformed_frame : (Instr.fdValidate [0xA5]).wellFormed (cfgT 8) = false := by decide
theorem test_illformed_frame_decode : (Instr.fdDecode []).wellFormed (cfgT 8) = false := by decide
theorem test_illformed_frame_vdec : (Instr.fdVdec [1, 2, 3]).wellFormed (cfgT 8) = false := by decide
theorem test_illformed_frame_raw : (Instr.fdRaw [1]).wellFormed (cfgT 8) = false := by decide
theorem test_illformed_bus : (Command.mk 0xB0 65536).wellFormed (cfgT 8) = false := by decide

/-- Each constraint of R6 broken in turn. -/
theorem test_illformed_configs :
    [ { cfgT 8 with sampleLen := 1 }, { cfgT 8 with msgBytes := 1, chkLen := 0 },
      { cfgT 8 with minSamples := 0 }, { cfgT 8 with splitSamples := 1 }, { cfgT 8 with splitSamples := 9 },
      { cfgT 8 with pulseHigh := false }, { cfgT 8 with chkLen := 0 }, { cfgT 8 with chkLen := 2 },
      { cfgT16 with chkLen := 2 }, { cfgT 8 with samplePeriod := 0 },
      { cfgT16 with fields := { fieldsT with rain := ⟨0, 0, 1, 0⟩ } },
      { cfgT16 with fields := { fieldsT with windGust := ⟨121, 8, 1, 0⟩ } },
      { cfgT16 with fields := { fieldsT with humidity := ⟨0, 8, 1, 2147483647⟩ } },
      { cfgT16 with fields := { fieldsT with temperature := ⟨0, 32, -1, 0⟩ } } ].all
      (fun c => !c.admitted) = true := by decide

/-! ## One-step vectors -/

/-- The example of R110. -/
theorem test_rbWrite_example : gives (exec (.rbWrite true) t8)
    (fun t => t.mem == [(0, true)] && t.head == 1 && t.tail == 0) = true := by decide

/-- The last write of V-RB-4: the oldest unread sample is overwritten (R111). -/
theorem test_rbWrite_overwrites : gives (exec (.rbWrite false) { busy with head := 0, tail := 0 })
    (fun t => t.mem == [(0, false), (1, false), (2, true)] && t.head == 1) = true := by decide

/-- V-RB-7. -/
theorem test_rbAvail_wraps : gives (exec .rbAvail { t8 with head := 1, tail := 6 })
    (fun t => shownCount t == 3 && t.head == 1 && t.tail == 6) = true := by decide

/-- V-RB-9: a capacity that is no power of two. -/
theorem test_rbAvail_six : gives (exec .rbAvail { State.resetWith (cfgT 6) with head := 0, tail := 4 })
    (fun t => shownCount t == 2) = true := by decide

/-- The example of R116. -/
theorem test_rbRead_example : gives (exec .rbRead { busy with tail := 0 })
    (fun t => shownBit t && t.tail == 1 && t.head == 3) = true := by decide

/-- V-RB-8. -/
theorem test_rbRead_nothing :
    (match exec .rbRead { t8 with head := 3, tail := 3 } with
      | .refused r => decide (r = .readNothingAvailable)
      | _ => false) = true := by decide

/-- P4, step 1. -/
theorem test_rbReset_step1 : gives (exec .rbReset busy)
    (fun t => t.head == 0 && t.tail == 1 && t.rphase == .headCleared && t.rsp.isNone) = true := by decide

/-- P4, step 2. -/
theorem test_rbReset_step2 : gives (exec .rbReset { busy with head := 1, tail := 2, rphase := .headCleared })
    (fun t => t.head == 1 && t.tail == 0 && t.rphase == .idle && rspValid t) = true := by decide

/-- The example of R130. -/
theorem test_dmProc_example : gives (exec (.dmProc false) { t8 with lvl := true, run := 7 })
    (fun t => t.lvl == false && t.run == 1 && t.nbits == 1 && t.msg == [0x80, 0x00]) = true := by decide

/-- The last step of V-DM-3: a run of 1 is a desync. -/
theorem test_dmProc_desync : gives (exec (.dmProc false) { busy with run := 1 })
    (fun t => t.lvl == false && t.run == 1 && t.nbits == 0 && t.msg == [0x00, 0x00]) = true := by decide

/-- V-DM-13. -/
theorem test_dmRxlen : gives (exec .dmRxlen busy) (fun t => shownCount t == 3 && !frameReady t) = true := by
  decide

/-- V-DM-13. -/
theorem test_dmGetmsg : gives (exec .dmGetmsg busy)
    (fun t => shownFrame t == [0xA0, 0x00] && t.nbits == 3 && rspFrameBus t == some 0xA000) = true := by decide

/-- V-DM-14. -/
theorem test_dmReset : gives (exec .dmReset { t8 with lvl := true, run := 6, nbits := 9, msg := [0xA5, 0x80] })
    (fun t => t.lvl == false && t.run == 0 && t.nbits == 0 && t.msg == [0x00, 0x00]) = true := by decide

/-- V-DM-1: both bounds are inclusive, the split is at 5. -/
theorem test_classify_bounds : [1, 2, 5, 6, 9, 10].map (classify (cfgT 8)) =
    [.desync, .bit false, .bit false, .bit true, .bit true, .desync] := by decide

/-- V-FD-12: `SUM8` on a two-byte frame. -/
theorem test_fdValidate_two : [[0xA5, 0xA5], [0xA5, 0x3C], [0x3C, 0x3C]].map (frameValid (cfgT 8)) =
    [true, false, true] := by decide

/-- V-FD-1, V-FD-2. -/
theorem test_fdValidate_sixteen : frameValid cfgT16 frame0 = true ∧ frameValid cfgT16 frame1 = false := by
  decide

/-- P2: under `CRC8_31` the frame `A5 09` validates and `A5 A5` does not. -/
theorem test_fdValidate_crc : [[0xA5, 0x09], [0xA5, 0xA5]].map
    (frameValid { cfgT 8 with chk := .crc8x31 }) = [true, false] := by decide

/-- V-FD-4. -/
theorem test_fdDecode : gives (exec (.fdDecode frame0) t16) (fun t =>
    (t.rsp.map fun r => r.fields.toList.map BitVec.toInt) == some [900, 500, 176, 12, 21, 62]) = true := by
  decide

/-- V-FD-9: a negative result is two's complement. -/
theorem test_fdDecode_negative :
    (sensorReading cfgT16 (List.replicate 16 0x00)).temperature = 0xFFFFFE70 := by decide

/-- V-FD-6. -/
theorem test_fdVdec_invalid : gives (exec (.fdVdec frame1) t16) (fun t =>
    (t.rsp.map fun r => (r.ok, r.fields.toList)) == some (false, [0, 0, 0, 0, 0, 0])) = true := by decide

/-- V-FD-10: an invalid frame passes through. -/
theorem test_fdRaw : gives (exec (.fdRaw frame1) t16) (fun t => shownFrame t == frame1) = true := by decide

/-! ## Steps -/

/-- A tick, with a response of an earlier step standing: it is over. -/
theorem test_step_tick :
    gives (step { quiet busy with sched := [.tick true], rsp := some (undriven (cfgT 8) 0) })
      (fun t => t.head == 4 && t.sched.isEmpty && t.rsp.isNone) = true := by decide

/-- The command byte 0x50 on the command port. -/
theorem test_step_command : gives (step { busy with sched := [.consumer], cmds := [⟨0x50, 0⟩] })
    (fun t => shownCount t == 3 && t.cmds.isEmpty && !rspIllegal t) = true := by decide

/-- P7: a reserved byte has no step in the model. -/
theorem test_step_reserved : step { busy with sched := [.consumer], cmds := [⟨0x30, 0⟩] } =
    .refused (.reservedCommand 0x30) := rfl

/-- P7: what the hardware does with it. -/
theorem test_hardware_reserved :
    gives (hardwareTurn { busy with sched := [.consumer], cmds := [⟨0x30, 0⟩] })
      (fun t => rspValid t && rspIllegal t && t.nbits == 3 && t.head == 3) = true := by decide

/-- Between the steps of `RB.RESET` no command is accepted (R32). -/
theorem test_step_second_half :
    gives (step { busy with sched := [.consumer], cmds := [⟨0x70, 0⟩], rphase := .headCleared })
      (fun t => t.rphase == .idle && t.tail == 0 && t.nbits == 3 && t.cmds.length == 1) = true := by decide

theorem test_step_rst : gives (step { busy with sched := [.rst] })
    (fun t => t.head == 0 && t.mem.isEmpty && t.nbits == 0 && t.cfg == cfgT 8) = true := by decide

/-- The first instruction after reset, on the block as built. -/
theorem test_first_instruction :
    gives (step (State.reset.withFetchWord 8 0x41)) (fun t => t.lvl) = true ∧
    gives (step (State.reset.withFetchWord 1 1)) (fun t => t.cmds.isEmpty) = true := by decide

/-! ## The drain pass -/

/-- V-SV-3: five of eight is a backlog. -/
theorem test_service_discards : gives (service ⟨{ busy with head := 6 }, []⟩)
    (fun r => r.discarded && r.pass.machine.head == 0 && r.pass.machine.nbits == 0) = true := by decide

/-! ## Hypotheses that can be met, for each statement that has some -/

theorem busy_inv : busy.Inv :=
  ⟨by decide, by decide, by decide, by decide, by decide, by decide, by decide, by decide, by decide,
    by decide, by decide, by decide, by decide⟩

theorem busy_readsWritten : busy.ReadsWritten :=
  ⟨by decide, fun _ => .inl (by decide), fun _ => .inl (by decide)⟩

theorem busy_holds : busy.Holds [false, true] := ⟨by decide, by decide, by decide, by decide⟩

theorem witness_resetState : (cfgT 8).admitted = true := by decide

theorem witness_rst : ({ busy with sched := [.rst, .consumer] } : State).sched = .rst :: [.consumer] := by
  decide

theorem witness_decodeEncode : (Instr.fdVdec [0xA5, 0x3C]).wellFormed (cfgT 8) = true := by decide

theorem witness_encodeDecode : (Command.mk 0xA0 0xFFFF).wellFormed (cfgT 8) = true ∧
    decodeCommand (cfgT 8) ⟨0xA0, 0xFFFF⟩ = .ok (.fdVdec [0xFF, 0xFF]) := by decide

theorem witness_frameBitsOnTheBus : 15 < 8 * ([0xA5, 0x3C] : Frame).length := by decide

/-- One state for each clause of the statement about steps. -/
theorem witness_stepRuns :
    ({ busy with sched := [.tick true] } : State).sched = .tick true :: [] ∧
    ({ busy with sched := [.consumer], cmds := [⟨0x60, 0⟩] } : State).cmds = ⟨0x60, 0⟩ :: [] ∧
    decodeCommand busy.cfg ⟨0x60, 0⟩ = .ok .dmGetmsg ∧ busy.rphase = .idle ∧
    ({ busy with sched := [.consumer], rphase := .headCleared } : State).rphase = .headCleared ∧
    ({ busy with sched := [.consumer] } : State).cmds = [] ∧ busy.sched = [] := by decide

theorem witness_reserved : decodeCommand busy.cfg ⟨0x30, 0⟩ = .error (.reserved 0x30) ∧
    ({ busy with sched := [.consumer], cmds := [⟨0x30, 0⟩] } : State).sched = .consumer :: [] ∧
    ({ busy with sched := [.consumer], cmds := [⟨0x30, 0⟩] } : State).cmds = ⟨0x30, 0⟩ :: [] ∧
    busy.rphase = .idle := by decide

theorem witness_reservedRefused : (0x43#8 : Byte) ∉ [0x00#8, 0x10#8, 0x20#8, 0x40#8, 0x41#8, 0x50#8,
    0x60#8, 0x70#8, 0x80#8, 0x90#8, 0xA0#8, 0xB0#8] ∧
    ({ busy with sched := [.consumer], cmds := [⟨0x43, 0⟩] } : State).cmds = ⟨0x43, 0⟩ :: [] ∧
    ({ busy with sched := [.consumer], cmds := [⟨0x43, 0⟩] } : State).rphase = .idle := by decide

theorem witness_hardwareAgrees (b : Byte) :
    step ({ busy with sched := [.tick true] }) ≠ .refused (.reservedCommand b) := by
  intro h; cases h

theorem witness_stepStops : gives (step { t8 with sched := [.consumer], cmds := [⟨0x10, 0⟩] })
    (fun _ => true) = false ∧ t8.head = t8.tail ∧ t8.readCredit = 0 := by decide

theorem witness_stepKeeps : busy.Inv ∧ busy.ReadsWritten ∧ step busy = .next (quiet busy) :=
  ⟨busy_inv, busy_readsWritten, rfl⟩

theorem witness_noReadSees : busy.Inv ∧ busy.ReadsWritten ∧ busy.rphase = .idle ∧
    exec .rbRead busy = .next (respond (driveBit false) (takeSample busy)) :=
  ⟨busy_inv, busy_readsWritten, rfl, rfl⟩

theorem witness_rbAvail : busy.cfg.admitted = true := by decide

/-- Either wording alone: data there but not asked for; asked for, and wrapped around. -/
theorem witness_rbRead :
    (0 < ({ busy with readCredit := 0 } : State).readCredit ∨ busy.head ≠ busy.tail) ∧
    (0 < ({ busy with tail := 3 } : State).readCredit ∨ ({ busy with tail := 3 } : State).head ≠ 3) := by
  decide

theorem witness_rbReset : busy.rphase = .idle ∧
    ({ busy with rphase := .headCleared } : State).rphase = .headCleared := by decide

theorem witness_resetWindow : busy.Inv ∧ busy.rphase = .idle ∧
    ([true, false, true].length + [true, true, false, true].length < busy.cfg.sampleLen) :=
  ⟨busy_inv, rfl, by decide⟩

/-- Boundary values: both ends of the index range, and the widest and the narrowest power of two. -/
theorem witness_indexArithmetic : 0 < 6 ∧ 5 < 6 ∧ 7 < 2 ^ 3 ∧ 0 < 2 ^ 0 := by decide

theorem witness_fifo : busy.Inv ∧ busy.Holds [false, true] ∧
    idealFifo busy.cfg.sampleLen [.avail, .read, .write true, .read, .read] [false, true] =
      some ([], [.count 2, .bit false, .bit true, .bit true]) :=
  ⟨busy_inv, busy_holds, by decide⟩

theorem witness_dmProcStores : false ≠ busy.lvl ∧ busy.cfg.pulseLevel busy.lvl = true ∧
    classify busy.cfg busy.run = .bit true ∧ busy.nbits < busy.cfg.msgBits ∧
    busy.msg.length = busy.cfg.msgBytes := by decide

/-- A full buffer, once with a run that encodes a bit and once with a desync. -/
theorem witness_dmProcFull :
    false ≠ ({ busy with nbits := 16 } : State).lvl ∧ busy.cfg.pulseLevel busy.lvl = true ∧
    ({ busy with nbits := 16 } : State).nbits = busy.cfg.msgBits ∧
    classify busy.cfg busy.run = .bit true ∧ classify busy.cfg 10 = .desync := by decide

/-- Both sides of the interval. -/
theorem witness_dmProcDesync : false ≠ busy.lvl ∧ busy.cfg.pulseLevel busy.lvl = true ∧
    1 < busy.cfg.minSamples ∧ busy.cfg.maxSamples < 10 := by decide

theorem witness_dmProcIgnores : true ≠ ({ busy with lvl := false } : State).lvl ∧
    busy.cfg.pulseLevel ({ busy with lvl := false } : State).lvl = false := by decide

theorem witness_saturated : busy.Inv := busy_inv

theorem witness_firstSample : busy.cfg.admitted = true := by decide

theorem witness_desyncEqualsReset : busy.cfg.admitted = true ∧ false ≠ busy.lvl ∧
    busy.cfg.pulseLevel busy.lvl = true ∧ ({ busy with run := 10 } : State).cfg.maxSamples < 10 := by decide

theorem witness_canonicalPattern : busy.Inv ∧
    maximalRuns [(false, 3), (true, 7), (false, 40), (true, 2), (false, 1), (true, 9)] ∧
    [(false, 3), (true, 7), (false, 40), (true, 2), (false, 1), (true, 9)].getLast? = some (true, 9) ∧
    noDesync busy.cfg [(false, 3), (true, 7), (false, 40), (true, 2), (false, 1), (true, 9)] ∧
    bitsOf busy.cfg [(false, 3), (true, 7), (false, 40), (true, 2), (false, 1), (true, 9)] =
      [true, false, true] :=
  ⟨busy_inv, by unfold maximalRuns; decide, by decide, by unfold noDesync; decide, by decide⟩

theorem witness_frameBit : 0 < 8 * ([0xA5, 0x3C] : Frame).length ∧
    15 < 8 * ([0xA5, 0x3C] : Frame).length := by decide

theorem witness_fdValidate : t16.cfg.admitted = true ∧ Frame.wellFormed t16.cfg frame0 = true := by decide

theorem witness_recomputed : (frame0.take 15).length = cfgT16.dataLen := by decide

theorem witness_corruptedChecksum : Frame.wellFormed cfgT16 frame0 = true ∧
    Frame.wellFormed cfgT16 (frame0.set 15 0x5D) = true ∧ frameValid cfgT16 frame0 = true ∧
    frame0.take cfgT16.dataLen = (frame0.set 15 0x5D).take cfgT16.dataLen ∧
    frame0 ≠ frame0.set 15 0x5D := by decide

/-- Flipping a bit of a byte changes it. -/
theorem flipped_byte_differs (B : Byte) (k : Nat) :
    setByteBit B (bitPlace k) (!B.getLsbD (bitPlace k)) ≠ B := by
  intro he
  have hp : bitPlace k < 8 := by unfold bitPlace; omega
  have hbit := congrArg (fun x => x.getLsbD (bitPlace k)) he
  revert hbit
  unfold setByteBit
  cases B.getLsbD (bitPlace k) <;> simp [hp]

/-- A configuration with one data byte has the property CHK_BITFLIP, and a valid frame to flip. -/
theorem witness_corruptedData : ChkBitflip (cfgT 8) ∧ Frame.wellFormed (cfgT 8) [0xA5, 0xA5] = true ∧
    frameValid (cfgT 8) [0xA5, 0xA5] = true ∧ 7 < 8 * (cfgT 8).dataLen := by
  refine ⟨fun d k hd hk => ?_, by decide, by decide, by decide⟩
  match d, hd with
  | [B], _ =>
    have hk8 : k < 8 := by simpa [cfgT, Config.dataLen, Config.smallest] using hk
    have h0 : k / 8 = 0 := by omega
    simpa [checksum, cfgT, Config.smallest, flipBit, setFrameBit, frameBit, h0, checksumByte, sum8]
      using flipped_byte_differs B k

theorem witness_testChecksums : (cfgT 8).admitted = true ∧ (cfgT 8).chk = .sum8 ∧
    ({ cfgT 8 with chk := .crc8x31 } : Config).admitted = true := by decide

theorem witness_fdDecode : t16.cfg.admitted = true ∧ Frame.wellFormed t16.cfg frame0 = true := by decide

theorem witness_fdRaw : Frame.wellFormed t16.cfg frame1 = true := by decide

theorem witness_onlyOwners : exec .rbReset busy = .next (resetHead busy) := rfl

theorem witness_noInterference :
    exec (.dmProc false) busy = .next (respond id (takeLevel false busy)) ∧
    exec (.dmProc false) { busy with head := 5 } = .next (respond id (takeLevel false { busy with head := 5 })) ∧
    busy.sameDemod { busy with head := 5 } := ⟨rfl, rfl, rfl, rfl, rfl, rfl⟩

theorem witness_ticksCommute : (∀ v, Instr.dmRxlen ≠ .rbWrite v) ∧ Instr.dmRxlen ≠ .rbAvail ∧
    Instr.dmRxlen ≠ .rbRead ∧ Instr.dmRxlen ≠ .rbReset := by simp

/-- Three samples before the count and one before each later step of the pass. -/
def latePass : Pass := ⟨busy, [[true, true, false], [true], [false], [true], [false]]⟩

theorem witness_backlog : latePass.machine.Inv ∧ latePass.machine.rphase = .idle ∧
    writeAll (latePass.gaps.getD 0 []) latePass.machine =
      .next (writeSample false (writeSample true (writeSample true busy))) ∧
    busy.cfg.sampleLen < 2 * bufferedLength (writeSample false (writeSample true (writeSample true busy))) ∧
    latePass.gaps.getD 2 [] ++ latePass.gaps.getD 3 [] = [false, true] ∧ 2 < busy.cfg.sampleLen :=
  ⟨busy_inv, by decide, rfl, by decide, by decide, by decide⟩

/-- The last pulse of a frame is about to fall: the pass completes it. -/
def nearlyDone : State := { busy with nbits := 15, msg := [0xA5, 0x3C], run := 3, readCredit := 0 }

theorem nearlyDone_inv : nearlyDone.Inv :=
  ⟨by decide, by decide, by decide, by decide, by decide, by decide, by decide, by decide, by decide,
    by decide, by decide, by decide, by decide⟩

/-- The producer writes one sample before the count and one during the reading of the frame. -/
def busyPass : Pass := ⟨nearlyDone, [[false], [], [true], [], [], [false], []]⟩

theorem witness_deliver : busyPass.machine.Inv ∧ busyPass.machine.Holds [false, true] ∧
    2 * ([false, true] ++ busyPass.gaps.headD []).length ≤ busyPass.machine.cfg.sampleLen ∧
    keepsUp busyPass.machine.cfg.sampleLen 2 busyPass.gaps
      (.rbAvail :: drainSteps [false, true, false] busyPass.machine) = true ∧
    (framesOf [false, true, false] nearlyDone).2 = [[0xA5, 0x3C]] ∧
    (busyPass.gaps.tail.take (drainSteps [false, true, false] busyPass.machine).length).flatten =
      [true, false] :=
  ⟨nearlyDone_inv, ⟨by decide, by decide, by decide, by decide⟩, by decide, by decide, by decide,
    by decide⟩

theorem witness_handshake :
    cmdValid { busy with sched := [.consumer], cmds := [⟨0x50, 0⟩] } = true ∧
    cmdReady { busy with sched := [.consumer], cmds := [⟨0x50, 0⟩] } = true ∧
    cmdValid { busy with sched := [.tick true], cmds := [⟨0x50, 0⟩] } = false ∧
    gives (step { busy with sched := [.consumer], cmds := [⟨0x50, 0⟩] }) (fun t => t.cmds == []) = true ∧
    gives (step { busy with sched := [.tick true], cmds := [⟨0x50, 0⟩] })
      (fun t => t.cmds == [⟨0x50, 0⟩]) = true := by decide

theorem witness_serviceNeverRefused :
    (Pass.mk busy [[true], [], [false, true, true, true, true, true, true]]).machine.Inv ∧
    busy.rphase = .idle := ⟨busy_inv, rfl⟩

theorem witness_pipeReset : busy.rphase = .idle := rfl

end Sys2Proof.Tests
end

/-! Proofs about the ring buffer (`40_ring_buffer.md`). First the index arithmetic of R120, then what
decoding, `writeSample` and a response leave alone, then the statements. -/

namespace Sys2Proof.RingBufferProofs
open Sys2Proof Sys2Proof.Machine Sys2Proof.Laws

/-! ## Index arithmetic (R120) -/

/-- The index difference is the mathematical residue of R8: the result of `%` is never negative, so
`toNat` loses nothing. -/
theorem indexDiff_cast {n : Nat} (hn : 0 < n) (h t : Nat) :
    (indexDiff n h t : Int) = ((h : Int) - t) % n :=
  Int.toNat_of_nonneg (Int.emod_nonneg _ (by omega))

/-- The difference of two indices in range: with wrap-around exactly when the first is the smaller. -/
theorem indexDiff_of_lt {n h t : Nat} (hh : h < n) (ht : t < n) :
    indexDiff n h t = if t ≤ h then h - t else h + n - t := by
  have hcast := indexDiff_cast (show 0 < n by omega) h t
  split
  · next hle =>
    rw [Int.emod_eq_of_lt (by omega) (by omega)] at hcast
    omega
  · next hgt =>
    rw [← Int.add_emod_right, Int.emod_eq_of_lt (by omega) (by omega)] at hcast
    omega

/-- For a capacity `2 ^ k` the increment is that of a `k`-bit register, which drops its carry. -/
theorem indexInc_two_pow (k h : Nat) : indexInc (2 ^ k) h = (BitVec.ofNat k h + 1).toNat := by
  simp [indexInc, BitVec.toNat_add]

/-- For a capacity `2 ^ k` the difference is that of two `k`-bit registers, which drops its borrow. -/
theorem indexDiff_two_pow {k h t : Nat} (hh : h < 2 ^ k) (ht : t < 2 ^ k) :
    indexDiff (2 ^ k) h t = (BitVec.ofNat k h - BitVec.ofNat k t).toNat := by
  rw [indexDiff_of_lt hh ht, BitVec.toNat_sub, BitVec.toNat_ofNat, BitVec.toNat_ofNat,
    Nat.mod_eq_of_lt hh, Nat.mod_eq_of_lt ht]
  split
  · next hle =>
    rw [show 2 ^ k - t + h = h - t + 2 ^ k by omega, Nat.add_mod_right, Nat.mod_eq_of_lt (by omega)]
  · next hgt =>
    rw [Nat.mod_eq_of_lt (by omega)]
    omega

/-- Settles O22: the clauses for any capacity by cases on the wrap-around, those for a power of two by
reading the residue as that of a register. -/
theorem indexArithmeticWraps : Obligations.IndexArithmeticWraps := by
  refine ⟨fun n h t hh ht => ?_, fun k h t hh ht => ?_⟩
  · have hn : 0 < n := by omega
    exact ⟨indexInc_of_lt hh, indexInc_lt hn h, indexDiff_of_lt hh ht, indexDiff_lt hn h t⟩
  · exact ⟨indexInc_two_pow k h, indexDiff_two_pow hh ht⟩

/-- The count of R113 is the residue of the two indices. -/
theorem bufferedLength_cast {s : State} (h : 0 < s.cfg.sampleLen) :
    (bufferedLength s : Int) = ((s.head : Int) - s.tail) % s.cfg.sampleLen :=
  indexDiff_cast h _ _

theorem bufferedLength_lt {s : State} (h : 0 < s.cfg.sampleLen) : bufferedLength s < s.cfg.sampleLen :=
  indexDiff_lt h _ _

/-- R6: no admitted configuration has fewer than two sample cells, so the residues are defined. -/
theorem two_le_sampleLen {c : Config} (h : c.admitted = true) : 2 ≤ c.sampleLen := by
  simp only [Config.admitted, Bool.and_eq_true, decide_eq_true_eq, and_assoc] at h
  obtain ⟨hlen, -⟩ := h
  exact hlen

/-! ## Decoding -/

/-- The word of format S is `RB.WRITE` (R82). -/
theorem decode_sample (c : Config) (b : Bit) : decode c (.sample b) = .ok (.rbWrite b) := rfl

/-- Byte `0x00` is `RB.AVAIL`, whatever stands on `cmd_frame` (R83, R85). -/
theorem decode_rbAvail (c : Config) (bus : Nat) :
    decode c (.command ⟨0x00#8, bus⟩) = .ok .rbAvail := by
  simp [decode, decodeCommand, selectInstr, unitField, functField, zeroField, bField]

/-- The producer's operation has no word on the consumer's port (R84). -/
theorem decode_command_ne_rbWrite (c : Config) (w : Command) (b : Bit) :
    decode c (.command w) ≠ .ok (.rbWrite b) := by
  intro h
  have hcases := decodeCommand_ok_cases (c := c) (w := w) h
  simp at hcases

/-! ## Frames -/

theorem sameDemod_writeSample (b : Bit) (s : State) : s.sameDemod (writeSample b s) := by
  simp [State.sameDemod]

theorem sameEnvironment_writeSample (b : Bit) (s : State) : s.sameEnvironment (writeSample b s) := by
  simp [State.sameEnvironment]

theorem sameDemod_grantCredit (n : Nat) (s : State) : s.sameDemod (grantCredit n s) := by
  simp [State.sameDemod]

theorem sameEnvironment_grantCredit (n : Nat) (s : State) : s.sameEnvironment (grantCredit n s) := by
  simp [State.sameEnvironment]

/-- Presenting a response writes no register of the demodulator. -/
theorem sameDemod_respond {s t : State} (h : s.sameDemod t) (drive : Response → Response) :
    s.sameDemod (respond drive t) := h

/-- Presenting a response changes no parameter and no input to come. -/
theorem sameEnvironment_respond {s t : State} (h : s.sameEnvironment t) (drive : Response → Response) :
    s.sameEnvironment (respond drive t) := h

/-- A command that returns a count shows it, and is no reserved byte (R88). -/
theorem answers_driveCount (n : Nat) (s : State) :
    (respond (driveCount n) s).answers (fun r => r.count = n) :=
  ⟨_, respond_rsp _ s, rfl, rfl⟩

/-! ## The operations -/

/-- Settles O16: `RB.WRITE` is `writeSample` and nothing besides; the memory law gives the cells. -/
theorem rbWriteStoresAndAdvances : Obligations.RbWriteStoresAndAdvances := by
  refine ⟨decode_sample, decode_command_ne_rbWrite, fun b s => ⟨writeSample b s, exec_rbWrite b s, ?_⟩⟩
  have hcell : sampleAt (writeSample b s) s.head = b := by simp [sampleAt_writeSample]
  have hother : ∀ a, a ≠ s.head → sampleAt (writeSample b s) a = sampleAt s a := fun a ha => by
    simp [sampleAt_writeSample, ha]
  exact ⟨hcell, hother, writeSample_head b s, writeSample_tail b s, writeSample_rphase b s,
    writeSample_readCredit b s, writeSample_rsp b s, sameDemod_writeSample b s,
    sameEnvironment_writeSample b s⟩

/-- Settles O17: the answer is the buffered length; what is written is the response and the model's own
count of R116, no state of PPMD. -/
theorem rbAvailReturnsBufferedLength : Obligations.RbAvailReturnsBufferedLength := by
  refine ⟨decode_rbAvail, fun s hadm => ⟨_, bufferedLength s, exec_rbAvail s, ?_⟩⟩
  have hpos : 0 < s.cfg.sampleLen := lt_of_lt_of_le Nat.zero_lt_two (two_le_sampleLen hadm)
  exact ⟨answers_driveCount _ _, bufferedLength_cast hpos, Nat.le_sub_one_of_lt (bufferedLength_lt hpos),
    by simp, sampleAt_congr (by simp) (by simp), by simp, by simp, by simp,
    sameDemod_respond (sameDemod_grantCredit _ s) _,
    sameEnvironment_respond (sameEnvironment_grantCredit _ s) _⟩

end Sys2Proof.RingBufferProofs

/-! Proofs about the demodulator (`41_demodulator.md`). First read after write for the bits of a buffer
(R51, R133) and the pulse-width code (R131), then what one transition does and leaves alone, then the
statements. -/

namespace Sys2Proof.DemodulatorProofs
open Sys2Proof Sys2Proof.Machine Sys2Proof.RingBufferProofs

/-! ## Bits of a buffer -/

theorem bitPlace_lt (k : Nat) : bitPlace k < 8 := by
  unfold bitPlace
  omega

/-- Within one byte, distinct frame bits have distinct places. -/
theorem bitPlace_inj {j k : Nat} (hbyte : j / 8 = k / 8) (hplace : bitPlace j = bitPlace k) : j = k := by
  unfold bitPlace at hplace
  omega

/-- The written bit of a byte is `v` exactly, for `v = 0` as for `v = 1`, and no other bit of it changes
(R133). -/
theorem getLsbD_setByteBit (B : Byte) {p : Nat} (hp : p < 8) (v : Bit) (q : Nat) :
    (setByteBit B p v).getLsbD q = if q = p then v else B.getLsbD q := by
  have hmask : (0x01#8 <<< p).getLsbD q = decide (q = p) := by
    rw [← BitVec.twoPow_eq, BitVec.getLsbD_twoPow, decide_eq_true hp, Bool.true_and, decide_eq_decide]
    exact eq_comm
  cases v with
  | true =>
    rw [setByteBit, if_pos rfl, BitVec.getLsbD_or, hmask]
    by_cases hq : q = p <;> simp [hq]
  | false =>
    rw [setByteBit, if_neg Bool.false_ne_true, BitVec.getLsbD_and, BitVec.getLsbD_not, hmask]
    by_cases hq : q = p
    · simp [hq]
    · simpa [hq] using BitVec.lt_of_getLsbD

@[simp] theorem setFrameBit_length (F : Frame) (k : Nat) (v : Bit) :
    (setFrameBit F k v).length = F.length := by
  simp [setFrameBit]

/-- Read after write over a whole buffer (R51, R133). -/
theorem frameBit_setFrameBit {F : Frame} {k : Nat} (hk : k < 8 * F.length) (v : Bit) (j : Nat) :
    frameBit (setFrameBit F k v) j = if j = k then v else frameBit F j := by
  have hin : k / 8 < F.length := by omega
  by_cases hbyte : j / 8 = k / 8
  · have hread : frameBit (setFrameBit F k v) j =
        (setByteBit (F.getD (k / 8) 0x00#8) (bitPlace k) v).getLsbD (bitPlace j) := by
      simp [frameBit, setFrameBit, hbyte, hin]
    have hiff : bitPlace j = bitPlace k ↔ j = k := ⟨bitPlace_inj hbyte, fun h => h ▸ rfl⟩
    rw [hread, getLsbD_setByteBit _ (bitPlace_lt k)]
    simp only [hiff, frameBit, hbyte]
  · have hne : j ≠ k := fun h => hbyte (h ▸ rfl)
    simp [frameBit, setFrameBit, hne, List.getElem?_set_ne (Ne.symm hbyte)]

/-! ## The pulse-width code (R131) -/

theorem classify_eq_desync_iff (c : Config) (n : Nat) :
    classify c n = .desync ↔ n < c.minSamples ∨ c.maxSamples < n := by
  unfold classify
  split
  · next hout => simp [hout]
  · next hin => split <;> simp [hin]

/-- A length in bounds encodes the bit that the threshold selects. -/
theorem classify_eq_bit_iff (c : Config) (n : Nat) (v : Bit) :
    classify c n = .bit v ↔
      c.minSamples ≤ n ∧ n ≤ c.maxSamples ∧ v = if n ≤ c.splitSamples then c.shortBit else !c.shortBit := by
  unfold classify
  split
  · next hout => exact iff_of_false (by simp) (by omega)
  · next hin =>
    have hlo : c.minSamples ≤ n := by omega
    have hhi : n ≤ c.maxSamples := by omega
    split <;> simp [hlo, hhi, eq_comm]

/-- R6: the bounds and the threshold of an admitted configuration stand in this order. -/
theorem sample_bounds_of_admitted {c : Config} (h : c.admitted = true) :
    c.minSamples ≤ c.splitSamples ∧ c.splitSamples < c.maxSamples := by
  simp only [Config.admitted, Bool.and_eq_true, decide_eq_true_eq, and_assoc] at h
  obtain ⟨-, -, -, hmin, hmax, -⟩ := h
  exact ⟨hmin, hmax⟩

/-- Settles O25: the bit of a length in bounds is the threshold's choice, and the threshold lies strictly
below the upper bound and not below the lower one, so each sub-range needs only two of the limits. -/
theorem classifyFollowsPulseWidthCode : Obligations.ClassifyFollowsPulseWidthCode := by
  intro c n hadm
  obtain ⟨hmin, hmax⟩ := sample_bounds_of_admitted hadm
  refine ⟨classify_eq_desync_iff c n, ?_⟩
  rw [classify_eq_bit_iff, classify_eq_bit_iff]
  by_cases hn : n ≤ c.splitSamples
  · have hhi : n ≤ c.maxSamples := by omega
    simp [hn, hhi]
  · have hlo : c.minSamples ≤ n := by omega
    simp [hn, hlo, lt_of_not_ge hn]

/-! ## A transition that ends a run -/

/-- R130: a transition of a pulse level acts on the class of the run it ends, then starts the new run. -/
theorem takeLevel_of_pulse {b : Bit} {s : State} (hb : b ≠ s.lvl) (hp : s.cfg.pulseLevel s.lvl = true) :
    takeLevel b s = startRun b (applyMeaning (classify s.cfg s.run) s) := by
  simp [takeLevel, hb, completeRun, hp]

/-- R133. -/
theorem takeLevel_of_bit {b v : Bit} {s : State} (hb : b ≠ s.lvl) (hp : s.cfg.pulseLevel s.lvl = true)
    (hc : classify s.cfg s.run = .bit v) (hn : s.nbits < s.cfg.msgBits) :
    takeLevel b s = startRun b (pushBit v s) := by
  rw [takeLevel_of_pulse hb hp, hc]
  simp [applyMeaning, storeBit, hn]

/-- R134. -/
theorem takeLevel_of_bit_full {b v : Bit} {s : State} (hb : b ≠ s.lvl)
    (hp : s.cfg.pulseLevel s.lvl = true) (hc : classify s.cfg s.run = .bit v)
    (hn : ¬ s.nbits < s.cfg.msgBits) : takeLevel b s = startRun b s := by
  rw [takeLevel_of_pulse hb hp, hc]
  simp [applyMeaning, storeBit, hn]

/-- R135. -/
theorem takeLevel_of_desync {b : Bit} {s : State} (hb : b ≠ s.lvl) (hp : s.cfg.pulseLevel s.lvl = true)
    (hc : classify s.cfg s.run = .desync) : takeLevel b s = startRun b (clearBits s) := by
  rw [takeLevel_of_pulse hb hp, hc]
  rfl

/-- A transition starts a run of length 1, whatever the run it ends meant (R130). -/
theorem takeLevel_run_of_ne {b : Bit} {s : State} (hb : b ≠ s.lvl) : (takeLevel b s).run = 1 := by
  simp [takeLevel, hb]

/-! ## Frames -/

theorem sameRing_takeLevel (b : Bit) (s : State) : s.sameRing (takeLevel b s) := by
  simp [State.sameRing, sampleAt]

theorem sameEnvironment_takeLevel (b : Bit) (s : State) : s.sameEnvironment (takeLevel b s) := by
  simp [State.sameEnvironment]

theorem sameRing_clearDemod (s : State) : s.sameRing (clearDemod s) := by
  simp [State.sameRing, sampleAt]

theorem sameEnvironment_clearDemod (s : State) : s.sameEnvironment (clearDemod s) := by
  simp [State.sameEnvironment]

/-- Presenting a response writes no register of the ring buffer. -/
theorem sameRing_respond {s t : State} (h : s.sameRing t) (drive : Response → Response) :
    s.sameRing (respond drive t) := h

/-- A command that drives nothing is answered, and is no reserved byte (R88). -/
theorem answers_respond_id (s : State) : (respond id s).answers (fun _ => True) :=
  ⟨_, respond_rsp id s, rfl, trivial⟩

/-- `DM.PROC` leaves the ring buffer alone (R23). -/
theorem sameRing_dmProc (b : Bit) (s : State) : s.sameRing (respond id (takeLevel b s)) :=
  sameRing_respond (sameRing_takeLevel b s) id

theorem sameEnvironment_dmProc (b : Bit) (s : State) : s.sameEnvironment (respond id (takeLevel b s)) :=
  sameEnvironment_respond (sameEnvironment_takeLevel b s) id

/-! ## The operations -/

/-- Settles O27: the transition is `pushBit` at position `nbits`, which lies in the buffer because the
buffer is not full; read after write gives every bit. -/
theorem dmProcStoresClassifiedBit : Obligations.DmProcStoresClassifiedBit := by
  intro b v s hb hp hc hn hlen
  have hin : s.nbits < 8 * s.msg.length := by rwa [hlen]
  have htake := takeLevel_of_bit hb hp hc hn
  have hmsg : (takeLevel b s).msg = setFrameBit s.msg s.nbits v := by simp [htake]
  refine ⟨_, exec_dmProc b s, by simp [htake], ?_, fun k hk => ?_, by simp [hmsg], by simp,
    takeLevel_run_of_ne hb, sameRing_dmProc b s, sameEnvironment_dmProc b s⟩
  · simp [hmsg, frameBit_setFrameBit hin]
  · simp [hmsg, frameBit_setFrameBit hin, hk]

/-- Settles O28: at `nbits = MSG_BITS` a bit leaves only the new run behind, a desync still clears. -/
theorem dmProcDropsBitWhenFull : Obligations.DmProcDropsBitWhenFull := by
  intro b s hb hp hfull
  refine ⟨_, exec_dmProc b s, by simp, takeLevel_run_of_ne hb, fun v hc => ?_, fun hc => ?_,
    sameRing_dmProc b s, sameEnvironment_dmProc b s⟩
  · simp [takeLevel_of_bit_full hb hp hc hfull.not_lt]
  · simp [takeLevel_of_desync hb hp hc, zeroFrame]

/-- Settles O29: a length out of bounds is a desync, whatever the buffer holds. -/
theorem dmProcDesyncClears : Obligations.DmProcDesyncClears := by
  intro b s hb hp hout
  have htake := takeLevel_of_desync hb hp ((classify_eq_desync_iff s.cfg s.run).2 hout)
  exact ⟨_, exec_dmProc b s, by simp [htake], by simp [htake, zeroFrame], by simp,
    takeLevel_run_of_ne hb, sameRing_dmProc b s, sameEnvironment_dmProc b s⟩

/-- Byte `0x70` is `DM.RESET`, whatever stands on `cmd_frame` (R83, R85). -/
theorem decode_dmReset (c : Config) (bus : Nat) :
    decode c (.command ⟨0x70#8, bus⟩) = .ok .dmReset := by
  simp [decode, decodeCommand, selectInstr, unitField, functField, zeroField, bField]

/-- Settles O34: `DM.RESET` is `clearDemod` and a response that drives nothing. -/
theorem dmResetClearsDemodulator : Obligations.DmResetClearsDemodulator :=
  ⟨decode_dmReset, fun s => ⟨_, exec_dmReset s, respond_nbits id _, respond_msg id _, respond_lvl id _,
    respond_run id _, answers_respond_id _, sameRing_respond (sameRing_clearDemod s) id,
    sameEnvironment_respond (sameEnvironment_clearDemod s) id⟩⟩

end Sys2Proof.DemodulatorProofs

/-! Proofs about the frame decoder (`42_frame_decoder.md`). First decoding and what an answer alone leaves
unchanged, then the operand of a well-formed frame, the checksum comparison (R164), and the range of a raw
field and of its scaled value (R53, R168), then the statements. -/

namespace Sys2Proof.FrameDecoderProofs
open Sys2Proof Sys2Proof.Machine Sys2Proof.RingBufferProofs Sys2Proof.DemodulatorProofs

/-! ## Decoding -/

/-- The four FD bytes of R85; each passes on the whole frame operand. -/
theorem decode_fdCommand (c : Config) (bus : Nat) :
    decode c (.command ⟨0x80#8, bus⟩) = .ok (.fdValidate (busFrame c bus)) ∧
    decode c (.command ⟨0x90#8, bus⟩) = .ok (.fdDecode (busFrame c bus)) ∧
    decode c (.command ⟨0xA0#8, bus⟩) = .ok (.fdVdec (busFrame c bus)) ∧
    decode c (.command ⟨0xB0#8, bus⟩) = .ok (.fdRaw (busFrame c bus)) := by
  simp [decode, decodeCommand, selectInstr, unitField, functField, zeroField, bField]

/-! ## Frames and answers -/

/-- FD has no state (R160): a command that only answers changes nothing of PPMD. -/
theorem respond_keeps_state (drive : Response → Response) (s : State) :
    s.sameRing (respond drive s) ∧ s.sameDemod (respond drive s) ∧ s.sameEnvironment (respond drive s) :=
  ⟨sameRing_respond ⟨fun _ => rfl, rfl, rfl, rfl, rfl, rfl⟩ drive,
    sameDemod_respond ⟨rfl, rfl, rfl, rfl⟩ drive, sameEnvironment_respond ⟨rfl, rfl, rfl, rfl⟩ drive⟩

/-- A command that leaves `rsp_illegal` alone answers with what it drives. -/
theorem answers_respond {drive : Response → Response} {s : State} {shows : Response → Prop}
    (hlegal : (drive (undriven s.cfg s.freeCtr)).illegal = false)
    (hshows : shows (drive (undriven s.cfg s.freeCtr))) : (respond drive s).answers shows :=
  ⟨_, respond_rsp drive s, hlegal, hshows⟩

/-! ## The frame operand -/

/-- A well-formed operand has no missing byte to fill in (R83, R160). -/
theorem operandBytes_of_wellFormed {c : Config} {F : Frame} (h : Frame.wellFormed c F = true) :
    operandBytes c F = F := by
  have hlen : F.length = c.msgBytes := by simpa [Frame.wellFormed] using h
  refine List.ext_getElem (by simp [operandBytes, hlen]) fun j _ hj => ?_
  simp [operandBytes, hj]

/-- R164 for the bytes of a well-formed frame. -/
theorem frameValid_iff_of_wellFormed {c : Config} {F : Frame} (h : Frame.wellFormed c F = true) :
    frameValid c F = true ↔ checksum c (F.take c.dataLen) = F.drop c.dataLen := by
  simp [frameValid, dataRegion, checksumRegion, operandBytes_of_wellFormed h]

@[simp] theorem checksum_length (c : Config) (d : List Byte) : (checksum c d).length = c.chkLen := by
  simp [checksum]

/-- R6: the checksum region lies inside the frame. -/
theorem chkLen_lt_msgBytes {c : Config} (h : c.admitted = true) : c.chkLen < c.msgBytes := by
  simp only [Config.admitted, Bool.and_eq_true, decide_eq_true_eq, and_assoc] at h
  obtain ⟨-, -, -, -, -, -, -, hlt, -⟩ := h
  exact hlt

/-- The checksum region has `CHK_LEN` bytes (R160). -/
theorem length_drop_dataLen {c : Config} {F : Frame} (hadm : c.admitted = true)
    (h : Frame.wellFormed c F = true) : (F.drop c.dataLen).length = c.chkLen := by
  have hlen : F.length = c.msgBytes := by simpa [Frame.wellFormed] using h
  have hlt := chkLen_lt_msgBytes hadm
  rw [List.length_drop, hlen, Config.dataLen]
  omega

/-- Both sides of the comparison have `CHK_LEN` bytes, so comparing these is comparing the lists. -/
theorem frameValid_iff_bytes {c : Config} {F : Frame} (hadm : c.admitted = true)
    (h : Frame.wellFormed c F = true) :
    frameValid c F = true ↔
      ∀ i, i < c.chkLen → (checksum c (F.take c.dataLen))[i]? = F[c.dataLen + i]? := by
  rw [frameValid_iff_of_wellFormed h]
  constructor
  · intro heq i _
    rw [heq, List.getElem?_drop]
  · intro hbytes
    refine List.ext_getElem? fun i => ?_
    by_cases hi : i < c.chkLen
    · rw [hbytes i hi, List.getElem?_drop]
    · have hout : c.chkLen ≤ i := Nat.le_of_not_lt hi
      rw [List.getElem?_eq_none (by simpa using hout),
        List.getElem?_eq_none ((length_drop_dataLen hadm h).trans_le hout)]

/-! ## Raw fields and scaling (R53, R167, R168) -/

/-- The first bit received is the most significant. -/
theorem rawField_succ (F : Frame) (off w : Nat) :
    rawField F off (w + 1) = (frameBit F off).toNat * 2 ^ w + rawField F (off + 1) w := by
  simp [rawField, List.range_succ_eq_map, Function.comp_def, Nat.sub_sub, Nat.add_assoc, Nat.add_comm 1]

/-- A raw value of `w` bits is below `2 ^ w`. -/
theorem rawField_lt (F : Frame) (off w : Nat) : rawField F off w < 2 ^ w := by
  induction w generalizing off with
  | zero => simp [rawField]
  | succ w ih =>
    have hfirst : (frameBit F off).toNat * 2 ^ w ≤ 2 ^ w := by
      simpa using Nat.mul_le_mul_right (2 ^ w) (Bool.toNat_le (frameBit F off))
    have hrest := ih (off + 1)
    rw [rawField_succ, Nat.pow_succ]
    omega

theorem fitsInt32_iff (v : Int) : fitsInt32 v = true ↔ -(2 ^ 31) ≤ v ∧ v < 2 ^ 31 := by
  simp [fitsInt32]

/-- An affine function of a raw value stays between its values at the two ends of the range, so it fits
32 bits wherever these do. -/
theorem fitsInt32_of_ends {x m mul add : Int} (h0 : 0 ≤ x) (hm : x ≤ m) (hlow : fitsInt32 add = true)
    (hhigh : fitsInt32 (m * mul + add) = true) : fitsInt32 (x * mul + add) = true := by
  rw [fitsInt32_iff] at *
  rcases le_total 0 mul with hpos | hneg
  · have hge : 0 ≤ x * mul := mul_nonneg h0 hpos
    have hle : x * mul ≤ m * mul := mul_le_mul_of_nonneg_right hm hpos
    omega
  · have hle : x * mul ≤ 0 := mul_nonpos_of_nonneg_of_nonpos h0 hneg
    have hge : m * mul ≤ x * mul := mul_le_mul_of_nonpos_right hm hneg
    omega

/-- R168: no raw value of an admitted field overflows. -/
theorem scaledValue_fits {n : Nat} {f : FieldSpec} (h : f.admitted n = true) (F : Frame) :
    fitsInt32 (scaledValue f (rawField F f.off f.width)) = true := by
  simp only [FieldSpec.admitted, Bool.and_eq_true] at h
  obtain ⟨-, hlow⟩ := h.1
  have hlt : (rawField F f.off f.width : Int) < 2 ^ f.width := by
    exact_mod_cast rawField_lt F f.off f.width
  exact fitsInt32_of_ends (Int.natCast_nonneg _) (Int.le_sub_one_of_lt hlt) hlow h.2

/-- A value that fits 32 bits is read back unchanged. -/
theorem toInt_ofInt_of_fits {v : Int} (h : fitsInt32 v = true) : (BitVec.ofInt 32 v).toInt = v := by
  obtain ⟨hlow, hhigh⟩ := (fitsInt32_iff v).1 h
  exact BitVec.toInt_ofInt_eq_self (by omega) hlow hhigh

/-- R167: the result of an admitted field is exact. -/
theorem fieldResult_toInt {n : Nat} {f : FieldSpec} (h : f.admitted n = true) (F : Frame) :
    (fieldResult F f).toInt = (rawField F f.off f.width : Int) * f.mul + f.add :=
  toInt_ofInt_of_fits (scaledValue_fits h F)

/-- R6, R168: every field of an admitted configuration is admitted. -/
theorem field_admitted {c : Config} (h : c.admitted = true) {f : FieldSpec} (hf : f ∈ c.fields.toList) :
    f.admitted c.msgBits = true := by
  simp only [Config.admitted, Bool.and_eq_true, and_assoc] at h
  obtain ⟨-, -, -, -, -, -, -, -, -, hall, -⟩ := h
  exact List.all_eq_true.1 hall f hf

theorem sixFields_toList_map {α β : Type} (g : α → β) (x : SixFields α) :
    (x.map g).toList = x.toList.map g := rfl

/-- The six integers that `FD.DECODE` gives of a well-formed frame (R167). -/
theorem sensorReading_toInt {c : Config} {F : Frame} (hadm : c.admitted = true)
    (hwf : Frame.wellFormed c F = true) :
    (sensorReading c F).toList.map BitVec.toInt =
      c.fields.toList.map fun f => (rawField F f.off f.width : Int) * f.mul + f.add := by
  rw [sensorReading, operandBytes_of_wellFormed hwf, sixFields_toList_map, List.map_map]
  exact List.map_congr_left fun f hf => fieldResult_toInt (field_admitted hadm hf) F

/-! ## The operations -/

/-- Settles O39: the verdict is `frameValid`, which compares byte by byte. -/
theorem fdValidateComparesChecksum : Obligations.FdValidateComparesChecksum := by
  refine ⟨fun c bus => ?_, fun F s hadm hwf => ⟨_, exec_fdValidate F s, ?_, respond_keeps_state _ s⟩⟩
  · obtain ⟨hvalidate, -⟩ := decode_fdCommand c bus
    exact hvalidate
  · exact answers_respond rfl (frameValid_iff_bytes hadm hwf)

/-- Settles O42: each raw value is in range, so each result is the exact integer (R168). -/
theorem fdDecodeScalesExactly : Obligations.FdDecodeScalesExactly := by
  refine ⟨fun c bus => ?_, fun F s hadm hwf => ⟨_, exec_fdDecode F s, ?_,
    fun f _ => rawField_lt F f.off f.width, respond_keeps_state _ s⟩⟩
  · obtain ⟨-, hdecode, -⟩ := decode_fdCommand c bus
    exact hdecode
  · exact answers_respond rfl (sensorReading_toInt hadm hwf)

/-- R170: of a valid frame the values of R167 leave FD. -/
theorem validatedReading_of_valid {c : Config} {F : Frame} (h : frameValid c F = true) :
    validatedReading c F = sensorReading c F :=
  if_pos h

/-- R161, R170: of an invalid frame six zeros leave FD. -/
theorem validatedReading_of_invalid {c : Config} {F : Frame} (h : frameValid c F = false) :
    (validatedReading c F).toList = List.replicate 6 0#32 := by
  rw [validatedReading, if_neg (by simp [h])]
  rfl

/-- Settles O44: the verdict is the one of `FD.VALIDATE`, and it chooses between the values of
`FD.DECODE` and zeros. -/
theorem fdVdecHidesInvalidFrames : Obligations.FdVdecHidesInvalidFrames := by
  refine ⟨fun c bus => ?_, fun F s => ⟨_, _, _, _, _, exec_fdVdec F s, exec_fdValidate F s,
    respond_rsp _ s, exec_fdDecode F s, respond_rsp _ s, ?_, respond_keeps_state _ s⟩⟩
  · obtain ⟨-, -, hvdec, -⟩ := decode_fdCommand c bus
    exact hvdec
  · exact answers_respond rfl ⟨rfl, validatedReading_of_valid, validatedReading_of_invalid⟩

/-- Settles O45: the operand passes through, and a well-formed one has all its bytes. -/
theorem fdRawReturnsFrame : Obligations.FdRawReturnsFrame := by
  refine ⟨fun c bus => ?_, fun F s hwf => ⟨_, exec_fdRaw F s, ?_, respond_keeps_state _ s⟩⟩
  · obtain ⟨-, -, -, hraw⟩ := decode_fdCommand c bus
    exact hraw
  · exact answers_respond rfl (operandBytes_of_wellFormed hwf)

end Sys2Proof.FrameDecoderProofs

/-! Proofs about the encoding (`30_encoding.md`). First how a frame lies on its bus, bit by bit (R52), from
which both directions of the frame operand follow; then the command bytes, then the statements. -/

namespace Sys2Proof.EncodingProofs
open Sys2Proof Sys2Proof.Machine Sys2Proof.Laws

/-! ## Frames on the bus -/

theorem foldl_bus (F : Frame) (acc : Nat) :
    F.foldl (fun acc B => 256 * acc + B.toNat) acc = 2 ^ (8 * F.length) * acc + frameBus F := by
  unfold frameBus
  induction F generalizing acc with
  | nil => simp
  | cons B F ih =>
    have hpow : 2 ^ (8 * (B :: F).length) = 2 ^ (8 * F.length) * 256 := by
      rw [List.length_cons, Nat.mul_succ, Nat.pow_add]
    rw [List.foldl_cons, List.foldl_cons, ih, ih (256 * 0 + B.toNat), hpow]
    ring

/-- Byte 0 is the most significant (R83). -/
theorem frameBus_cons (B : Byte) (F : Frame) :
    frameBus (B :: F) = 2 ^ (8 * F.length) * B.toNat + frameBus F := by
  simpa [frameBus] using foldl_bus F B.toNat

/-- The first eight bits of a frame are those of its first byte, most significant first (R51). -/
theorem frameBit_cons_of_lt (B : Byte) (F : Frame) {k : Nat} (hk : k < 8) :
    frameBit (B :: F) k = B.getLsbD (7 - k) := by
  simp [frameBit, bitPlace, Nat.div_eq_of_lt hk, Nat.mod_eq_of_lt hk]

theorem frameBit_cons_of_ge (B : Byte) (F : Frame) {k : Nat} (hk : 8 ≤ k) :
    frameBit (B :: F) k = frameBit F (k - 8) := by
  obtain ⟨m, rfl⟩ := Nat.exists_eq_add_of_le' hk
  simp [frameBit, bitPlace]

/-- R52: by induction on the frame; the first byte lies above all the others on the bus. -/
theorem testBit_frameBus (F : Frame) (k : Nat) (hk : k < 8 * F.length) :
    (frameBus F).testBit (8 * F.length - 1 - k) = frameBit F k := by
  induction F generalizing k with
  | nil => simp at hk
  | cons B F ih =>
    rw [List.length_cons] at hk ⊢
    rw [frameBus_cons, Nat.testBit_two_pow_mul_add _ (frameBus_lt F)]
    by_cases hfirst : k < 8
    · rw [if_neg (by omega), frameBit_cons_of_lt B F hfirst, BitVec.testBit_toNat]
      congr 1
      omega
    · rw [if_pos (by omega), frameBit_cons_of_ge B F (by omega), ← ih (k - 8) (by omega)]
      congr 1
      omega

/-- Settles O7: the law of one frame bit, proved above by induction on the frame. -/
theorem frameBitsOnTheBus : Obligations.FrameBitsOnTheBus := testBit_frameBus

/-- A byte taken from the bus holds eight neighbouring bus bits (R83). -/
theorem getLsbD_busByte (c : Config) (bus j : Nat) {p : Nat} (hp : p < 8) :
    (busByte c bus j).getLsbD p = bus.testBit (c.msgBits - 8 - 8 * j + p) := by
  rw [busByte, BitVec.getLsbD_ofNat, decide_eq_true hp, Bool.true_and, Nat.testBit_div_two_pow,
    Nat.add_comm]

/-- Bit `p` of byte `j` is frame bit `8 j + 7 - p` (R51). -/
theorem frameBit_byte (F : Frame) (j : Nat) {p : Nat} (hp : p < 8) :
    frameBit F (8 * j + (7 - p)) = (F.getD j 0x00#8).getLsbD p := by
  have hbyte : (8 * j + (7 - p)) / 8 = j := by omega
  have hplace : bitPlace (8 * j + (7 - p)) = p := by unfold bitPlace; omega
  rw [frameBit, hbyte, hplace]

/-- The operand read from the bus is the frame that was put on it (R83): bit by bit. -/
theorem busFrame_frameBus {c : Config} {F : Frame} (h : Frame.wellFormed c F = true) :
    busFrame c (frameBus F) = F := by
  have hlen : F.length = c.msgBytes := by simpa [Frame.wellFormed] using h
  refine List.ext_getElem (by simp [hlen]) fun j _ hj => ?_
  have hbyte : busByte c (frameBus F) j = F[j] := by
    refine BitVec.eq_of_getLsbD_eq fun p hp => ?_
    have hplace : c.msgBits - 8 - 8 * j + p = 8 * F.length - 1 - (8 * j + (7 - p)) := by
      rw [Config.msgBits, ← hlen]
      omega
    rw [getLsbD_busByte c _ j hp, hplace, testBit_frameBus F _ (by omega), frameBit_byte F j hp]
    simp [hj]
  simpa [busFrame] using hbyte

/-- The frame read from the bus, put on it again, gives the value that was there: bit by bit. -/
theorem frameBus_busFrame {c : Config} {bus : Nat} (h : bus < 2 ^ c.msgBits) :
    frameBus (busFrame c bus) = bus := by
  have hlen : (busFrame c bus).length = c.msgBytes := busFrame_length c bus
  have hlt : frameBus (busFrame c bus) < 2 ^ c.msgBits := by
    simpa [Config.msgBits, hlen] using frameBus_lt (busFrame c bus)
  refine Nat.eq_of_testBit_eq fun i => ?_
  by_cases hi : i < c.msgBits
  · rw [Config.msgBits] at hi
    have hplace : i = 8 * (busFrame c bus).length - 1 - (8 * (c.msgBytes - 1 - i / 8) + (7 - i % 8)) := by
      rw [hlen]
      omega
    have hin : c.msgBytes - 1 - i / 8 < c.msgBytes := by omega
    have hbit : (frameBus (busFrame c bus)).testBit i =
        (busByte c bus (c.msgBytes - 1 - i / 8)).getLsbD (i % 8) := by
      conv_lhs => rw [hplace]
      rw [testBit_frameBus _ _ (by rw [hlen]; omega), frameBit_byte _ _ (by omega)]
      simp [busFrame, hin]
    rw [hbit, getLsbD_busByte c bus _ (by omega)]
    congr 1
    rw [Config.msgBits]
    omega
  · have hpow : 2 ^ c.msgBits ≤ 2 ^ i := Nat.pow_le_pow_right (by omega) (by omega)
    rw [Nat.testBit_lt_two_pow (by omega), Nat.testBit_lt_two_pow (by omega)]

/-! ## Command bytes -/

/-- Each byte of R85 decodes to its operation, whatever stands on `cmd_frame`. -/
theorem decodeCommand_rows (c : Config) (bus : Nat) :
    decodeCommand c ⟨0x00#8, bus⟩ = .ok .rbAvail ∧
    decodeCommand c ⟨0x10#8, bus⟩ = .ok .rbRead ∧
    decodeCommand c ⟨0x20#8, bus⟩ = .ok .rbReset ∧
    decodeCommand c ⟨0x40#8, bus⟩ = .ok (.dmProc false) ∧
    decodeCommand c ⟨0x41#8, bus⟩ = .ok (.dmProc true) ∧
    decodeCommand c ⟨0x50#8, bus⟩ = .ok .dmRxlen ∧
    decodeCommand c ⟨0x60#8, bus⟩ = .ok .dmGetmsg ∧
    decodeCommand c ⟨0x70#8, bus⟩ = .ok .dmReset ∧
    decodeCommand c ⟨0x80#8, bus⟩ = .ok (.fdValidate (busFrame c bus)) ∧
    decodeCommand c ⟨0x90#8, bus⟩ = .ok (.fdDecode (busFrame c bus)) ∧
    decodeCommand c ⟨0xA0#8, bus⟩ = .ok (.fdVdec (busFrame c bus)) ∧
    decodeCommand c ⟨0xB0#8, bus⟩ = .ok (.fdRaw (busFrame c bus)) := by
  simp [decodeCommand, selectInstr, unitField, functField, zeroField, bField]

/-- The twelve legal command bytes (R85, R86). -/
def legalBytes : List Byte :=
  [0x00#8, 0x10#8, 0x20#8, 0x40#8, 0x41#8, 0x50#8, 0x60#8, 0x70#8, 0x80#8, 0x90#8, 0xA0#8, 0xB0#8]

/-- A command is accepted exactly where its byte is legal (R86). -/
theorem decodeCommand_ok_iff (c : Config) (w : Command) :
    (∃ i, decodeCommand c w = .ok i) ↔ w.cmd ∈ legalBytes := by
  constructor
  · rintro ⟨i, hi⟩
    rcases decodeCommand_ok_cases hi with ⟨h, -⟩ | ⟨h, -⟩ | ⟨h, -⟩ | ⟨h, -⟩ | ⟨h, -⟩ | ⟨h, -⟩ | ⟨h, -⟩ |
      ⟨h, -⟩ | ⟨h, -⟩ | ⟨h, -⟩ | ⟨h, -⟩ | ⟨h, -⟩ <;> simp [h, legalBytes]
  · obtain ⟨cmd, bus⟩ := w
    intro hmem
    obtain ⟨h00, h10, h20, h40, h41, h50, h60, h70, h80, h90, hA0, hB0⟩ := decodeCommand_rows c bus
    simp only [legalBytes, List.mem_cons, List.not_mem_nil, or_false] at hmem
    rcases hmem with rfl | rfl | rfl | rfl | rfl | rfl | rfl | rfl | rfl | rfl | rfl | rfl
    exacts [⟨_, h00⟩, ⟨_, h10⟩, ⟨_, h20⟩, ⟨_, h40⟩, ⟨_, h41⟩, ⟨_, h50⟩, ⟨_, h60⟩, ⟨_, h70⟩, ⟨_, h80⟩,
      ⟨_, h90⟩, ⟨_, hA0⟩, ⟨_, hB0⟩]

/-- Every other byte is rejected as reserved, by its value (R88). -/
theorem decodeCommand_reserved {c : Config} {w : Command} (h : w.cmd ∉ legalBytes) :
    decodeCommand c w = .error (.reserved w.cmd) := by
  cases hd : decodeCommand c w with
  | ok i => exact absurd ((decodeCommand_ok_iff c w).1 ⟨i, hd⟩) h
  | error e => rw [decodeCommand_error hd]

/-- The rows of R85 as (value, mask): `DM.PROC` leaves bit 0 to its operand. -/
def tableRows : List (Byte × Byte) :=
  [(0x00#8, 0xFF#8), (0x10#8, 0xFF#8), (0x20#8, 0xFF#8), (0x40#8, 0xFE#8), (0x50#8, 0xFF#8),
    (0x60#8, 0xFF#8), (0x70#8, 0xFF#8), (0x80#8, 0xFF#8), (0x90#8, 0xFF#8), (0xA0#8, 0xFF#8),
    (0xB0#8, 0xFF#8)]

/-- Over the 256 bytes: a legal byte matches one row, a reserved byte none. -/
theorem matching_rows (b : Byte) :
    (tableRows.filter fun r => b &&& r.2 == r.1).length = if b ∈ legalBytes then 1 else 0 := by
  revert b
  decide

/-- Settles O3: acceptance is membership in the list of legal bytes, rejection the rest, and the match
with the table is a check of all bytes. -/
theorem legalCommandBytesAreTwelve : Obligations.LegalCommandBytesAreTwelve :=
  ⟨tableRows, rfl, fun c w => ⟨decodeCommand_ok_iff c w, decodeCommand_reserved, matching_rows w.cmd,
    RingBufferProofs.decode_command_ne_rbWrite c w⟩⟩

/-- Settles O4: six rows of the table, and a byte that is not in it. -/
theorem writtenWordsDecode : Obligations.WrittenWordsDecode := by
  intro c bus
  obtain ⟨h00, -, h20, -, h41, -, h60, -, -, h90, -, -⟩ := decodeCommand_rows c bus
  have hreserved : decodeCommand c ⟨0x42#8, bus⟩ = .error (.reserved 0x42#8) :=
    decodeCommand_reserved (show 0x42#8 ∉ legalBytes by decide)
  exact ⟨rfl, rfl, h00, h20, h41, h60, h90, hreserved⟩

/-! ## Round trips -/

/-- Settles O5: the command bytes are those of the table, and the frame operand survives the bus. -/
theorem decodeEncodeRoundTrip : Obligations.DecodeEncodeRoundTrip := by
  intro c i hwf
  obtain ⟨h00, h10, h20, h40, h41, h50, h60, h70, -, -, -, -⟩ := decodeCommand_rows c 0
  have hframe : ∀ F, Frame.wellFormed c F = true →
      decodeCommand c ⟨0x80#8, frameBus F⟩ = .ok (.fdValidate F) ∧
      decodeCommand c ⟨0x90#8, frameBus F⟩ = .ok (.fdDecode F) ∧
      decodeCommand c ⟨0xA0#8, frameBus F⟩ = .ok (.fdVdec F) ∧
      decodeCommand c ⟨0xB0#8, frameBus F⟩ = .ok (.fdRaw F) := fun F hF => by
    obtain ⟨-, -, -, -, -, -, -, -, h⟩ := decodeCommand_rows c (frameBus F)
    rwa [busFrame_frameBus hF] at h
  cases i with
  | rbWrite b => rfl
  | rbAvail => exact h00
  | rbRead => exact h10
  | rbReset => exact h20
  | dmProc b =>
    cases b with
    | false => exact h40
    | true => exact h41
  | dmRxlen => exact h50
  | dmGetmsg => exact h60
  | dmReset => exact h70
  | fdValidate F => obtain ⟨h80, -⟩ := hframe F hwf; exact h80
  | fdDecode F => obtain ⟨-, h90, -⟩ := hframe F hwf; exact h90
  | fdVdec F => obtain ⟨-, -, hA0, -⟩ := hframe F hwf; exact hA0
  | fdRaw F => obtain ⟨-, -, -, hB0⟩ := hframe F hwf; exact hB0

/-- Settles O6: each accepted byte is the one its operation is encoded with; for the FD bytes the operand
read from the bus, put on it again, gives the same value. -/
theorem encodeDecodeRoundTrip : Obligations.EncodeDecodeRoundTrip := by
  rintro c ⟨cmd, bus⟩ i hwf hok
  have hbus : frameBus (busFrame c bus) = bus :=
    frameBus_busFrame (by simpa [Command.wellFormed] using hwf)
  have hframe : Frame.wellFormed c (busFrame c bus) = true := by simp [Frame.wellFormed]
  have hcases := decodeCommand_ok_cases hok
  dsimp only at hcases
  rcases hcases with ⟨rfl, rfl⟩ | ⟨rfl, rfl⟩ | ⟨rfl, rfl⟩ | ⟨rfl, rfl⟩ | ⟨rfl, rfl⟩ | ⟨rfl, rfl⟩ |
    ⟨rfl, rfl⟩ | ⟨rfl, rfl⟩ | ⟨rfl, rfl⟩ | ⟨rfl, rfl⟩ | ⟨rfl, rfl⟩ | ⟨rfl, rfl⟩
  iterate 8 exact ⟨rfl, _, rfl, rfl, fun h => by simp at h⟩
  iterate 4 exact ⟨hframe, _, rfl, rfl, fun _ => hbus⟩

end Sys2Proof.EncodingProofs

/-! Proofs about the invariants of R35 and about R40, U7 (`10_state.md`). First the facts that the
invariants rest on, then one lemma per update of the state, then one per operation, then the statements:
each holds at reset and every step keeps it. -/

namespace Sys2Proof.InvariantProofs
open Sys2Proof Sys2Proof.Machine Sys2Proof.RingBufferProofs Sys2Proof.DemodulatorProofs
open Sys2Proof.FrameDecoderProofs

/-! ## Widths (R6, R11) -/

theorem le_two_pow_clog2 (n : Nat) : n ≤ 2 ^ clog2 n := by
  unfold clog2
  split
  · simpa
  · have := Nat.lt_log2_self (n := n - 1)
    omega

/-- An index fits the bus `rsp_count`. -/
theorem lt_countW_of_lt_sampleLen {c : Config} {n : Nat} (h : n < c.sampleLen) : n < 2 ^ c.countW :=
  calc n < 2 ^ c.idxW := lt_of_lt_of_le h (le_two_pow_clog2 _)
    _ ≤ 2 ^ c.countW := Nat.pow_le_pow_right (by omega) (le_max_left _ _)

/-- A bit count fits the bus `rsp_count`. -/
theorem lt_countW_of_le_msgBits {c : Config} {n : Nat} (h : n ≤ c.msgBits) : n < 2 ^ c.countW :=
  calc n < 2 ^ c.nbW := lt_of_lt_of_le (Nat.lt_succ_of_le h) (le_two_pow_clog2 _)
    _ ≤ 2 ^ c.countW := Nat.pow_le_pow_right (by omega) (le_max_right _ _)

theorem responseFits_iff (c : Config) (r : Response) :
    responseFits c r = true ↔ r.count < 2 ^ c.countW ∧ r.frame.length = c.msgBytes := by
  simp [responseFits]

/-- The values that nothing drives stay within their buses (log 8). -/
theorem undriven_fits (c : Config) (k : Nat) :
    (undriven c k).count < 2 ^ c.countW ∧ (undriven c k).frame.length = c.msgBytes :=
  ⟨Nat.mod_lt _ (Nat.two_pow_pos _), by simp [undriven, freeFrame]⟩

theorem two_le_msgBytes {c : Config} (h : c.admitted = true) : 2 ≤ c.msgBytes := by
  simp only [Config.admitted, Bool.and_eq_true, decide_eq_true_eq, and_assoc] at h
  obtain ⟨-, hbytes, -⟩ := h
  exact hbytes

theorem one_le_minSamples {c : Config} (h : c.admitted = true) : 1 ≤ c.minSamples := by
  simp only [Config.admitted, Bool.and_eq_true, decide_eq_true_eq, and_assoc] at h
  obtain ⟨-, -, hmin, -⟩ := h
  exact hmin

theorem frameBit_replicate_zero (n k : Nat) : frameBit (List.replicate n 0x00#8) k = false := by
  have hbyte : (List.replicate n 0x00#8).getD (k / 8) 0x00#8 = 0x00#8 := by
    by_cases h : k / 8 < n <;> simp [h]
  rw [frameBit, hbyte, BitVec.getLsbD_zero]

/-! ## The invariants of R35: one lemma per update -/

section
variable {s : State}

theorem inv_resetWith {c : Config} (h : c.admitted = true) : (State.resetWith c).Inv where
  config := h
  head_lt := lt_of_lt_of_le Nat.zero_lt_two (two_le_sampleLen h)
  tail_lt := lt_of_lt_of_le Nat.zero_lt_two (two_le_sampleLen h)
  nbits_le := Nat.zero_le _
  run_le := Nat.zero_le _
  run_zero := fun _ => ⟨rfl, rfl⟩
  msg_length := List.length_replicate
  msg_rest := fun k _ _ => frameBit_replicate_zero _ k
  mem_wf := Memory.wf_nil
  mem_inside := by simp
  credit_lt := lt_of_lt_of_le Nat.zero_lt_two (two_le_sampleLen h)
  credit_reset := fun _ => rfl
  rsp_fits := rfl

/-- `rst` leaves the registers of the reset state, which are all that the invariants speak of (R40). -/
theorem inv_assertRst (hs : s.Inv) : (assertRst s).Inv :=
  { inv_resetWith hs.config with }

theorem inv_quiet (hs : s.Inv) : (quiet s).Inv := { hs with rsp_fits := rfl }

theorem inv_startTurn (hs : s.Inv) (rest : List Turn) : (startTurn rest s).Inv :=
  { hs with rsp_fits := rfl }

theorem inv_setCommands (hs : s.Inv) (ws : List Command) : (setCommands ws s).Inv := { hs with }

/-- A response keeps the invariants when what the command drives fits its bus. -/
theorem inv_respond {drive : Response → Response} (hs : s.Inv)
    (hcount : (drive (undriven s.cfg s.freeCtr)).count < 2 ^ s.cfg.countW)
    (hframe : (drive (undriven s.cfg s.freeCtr)).frame.length = s.cfg.msgBytes) :
    (respond drive s).Inv :=
  { hs with rsp_fits := (responseFits_iff _ _).2 ⟨hcount, hframe⟩ }

/-- A command that drives neither `rsp_count` nor `rsp_frame`. -/
theorem inv_respond_undriven {drive : Response → Response} (hs : s.Inv)
    (hcount : ∀ r, (drive r).count = r.count) (hframe : ∀ r, (drive r).frame = r.frame) :
    (respond drive s).Inv := by
  obtain ⟨hc, hf⟩ := undriven_fits s.cfg s.freeCtr
  exact inv_respond hs (by rwa [hcount]) (by rwa [hframe])

theorem inv_respond_count {n : Nat} (hs : s.Inv) (hn : n < 2 ^ s.cfg.countW) :
    (respond (driveCount n) s).Inv :=
  inv_respond hs hn (undriven_fits s.cfg s.freeCtr).2

theorem inv_respond_frame {F : Frame} (hs : s.Inv) (hF : F.length = s.cfg.msgBytes) :
    (respond (driveFrame F) s).Inv :=
  inv_respond hs (undriven_fits s.cfg s.freeCtr).1 hF

theorem sampleLen_pos (hs : s.Inv) : 0 < s.cfg.sampleLen := Nat.zero_lt_of_lt hs.head_lt

theorem inv_writeSample (hs : s.Inv) (b : Bit) : (writeSample b s).Inv :=
  { hs with
    head_lt := indexInc_lt (sampleLen_pos hs) _
    mem_wf := Memory.store_wf _ _ _ hs.mem_wf
    mem_inside := fun a ha => by
      rcases (Memory.mem_store_keys _ _ _ _).1 ha with rfl | hold
      · exact hs.head_lt
      · exact hs.mem_inside a hold }

/-- A count may be held only between commands (R116, log 7). -/
theorem inv_grantCredit {n : Nat} (hs : s.Inv) (hidle : s.rphase = .idle) (hn : n < s.cfg.sampleLen) :
    (grantCredit n s).Inv :=
  { hs with
    credit_lt := hn
    credit_reset := fun h => by simp [hidle] at h }

theorem inv_takeSample (hs : s.Inv) : (takeSample s).Inv :=
  { hs with
    tail_lt := indexInc_lt (sampleLen_pos hs) _
    credit_lt := lt_of_le_of_lt (Nat.sub_le _ _) hs.credit_lt
    credit_reset := fun h => by
      have hnone : s.readCredit = 0 := hs.credit_reset h
      simp [hnone] }

theorem inv_resetHead (hs : s.Inv) : (resetHead s).Inv :=
  have hpos := sampleLen_pos hs
  { hs with
    head_lt := hpos
    credit_lt := hpos
    credit_reset := fun _ => rfl }

theorem inv_resetTail (hs : s.Inv) : (resetTail s).Inv :=
  have hpos := sampleLen_pos hs
  { hs with
    tail_lt := hpos
    credit_lt := hpos
    credit_reset := fun _ => rfl }

theorem inv_continueRun (hs : s.Inv) : (continueRun s).Inv :=
  { hs with
    run_le := min_le_right _ _
    run_zero := fun h => by simp [continueRun] at h }

theorem inv_startRun (hs : s.Inv) (b : Bit) : (startRun b s).Inv :=
  { hs with
    run_le := Nat.le_add_left 1 _
    run_zero := fun h => by simp at h }

theorem inv_clearBits (hs : s.Inv) : (clearBits s).Inv :=
  { hs with
    nbits_le := Nat.zero_le _
    run_zero := fun h => ⟨(hs.run_zero h).1, rfl⟩
    msg_length := List.length_replicate
    msg_rest := fun k _ _ => frameBit_replicate_zero _ k }

/-- A stored bit comes with a new run (R130, R133): `pushBit` alone would leave a bit with a run of
length 0. -/
theorem inv_startRun_pushBit (hs : s.Inv) (b v : Bit) (hn : s.nbits < s.cfg.msgBits) :
    (startRun b (pushBit v s)).Inv :=
  have hin : s.nbits < 8 * s.msg.length := by rwa [hs.msg_length]
  { hs with
    nbits_le := hn
    run_le := Nat.le_add_left 1 _
    run_zero := fun h => by simp at h
    msg_length := by simp [hs.msg_length]
    msg_rest := fun k hk hge => by
      have hlt : s.nbits < k := hge
      have hbit : frameBit (setFrameBit s.msg s.nbits v) k = frameBit s.msg k := by
        rw [frameBit_setFrameBit hin, if_neg (Nat.ne_of_gt hlt)]
      exact hbit.trans (hs.msg_rest k hk hlt.le) }

theorem inv_takeLevel (hs : s.Inv) (b : Bit) : (takeLevel b s).Inv := by
  rcases takeLevel_cases b s with ⟨-, h⟩ | ⟨-, -, h⟩ | ⟨-, -, -, h⟩ | ⟨v, -, -, -, hn, h⟩ |
    ⟨v, -, -, -, -, h⟩
  · exact h ▸ inv_continueRun hs
  · exact h ▸ inv_startRun hs b
  · exact h ▸ inv_startRun (inv_clearBits hs) b
  · exact h ▸ inv_startRun_pushBit hs b v hn
  · exact h ▸ inv_startRun hs b

theorem inv_clearDemod (hs : s.Inv) : (clearDemod s).Inv :=
  { inv_clearBits hs with
    run_le := Nat.zero_le _
    run_zero := fun _ => ⟨rfl, rfl⟩ }

end

/-! ## What an operation answers -/

/-- `RB.READ` completes only with something available, by its one effect (R116). -/
theorem exec_rbRead_next {s t : State} (h : exec .rbRead s = .next t) :
    somethingAvailable s = true ∧ t = respond (driveBit (sampleAt s s.tail)) (takeSample s) := by
  cases ha : somethingAvailable s with
  | true =>
    rw [exec_rbRead_available ha] at h
    cases h
    exact ⟨rfl, rfl⟩
  | false =>
    rw [exec_rbRead_nothing ha] at h
    cases h

/-- `RB.RESET` performs the step that `rphase` tells (R32, R118). -/
theorem exec_rbReset_next {s t : State} (h : exec .rbReset s = .next t) :
    (s.rphase = .idle ∧ t = resetHead s) ∨
      (s.rphase = .headCleared ∧ t = respond id (resetTail s)) := by
  cases hp : s.rphase with
  | idle =>
    rw [exec_rbReset_idle hp] at h
    cases h
    exact .inl ⟨rfl, rfl⟩
  | headCleared =>
    rw [exec_rbReset_headCleared hp] at h
    cases h
    exact .inr ⟨rfl, rfl⟩

/-! ## The invariants of R35: one operation, one step -/

theorem inv_exec_rbReset {s t : State} (hs : s.Inv) (h : exec .rbReset s = .next t) : t.Inv := by
  rcases exec_rbReset_next h with ⟨-, rfl⟩ | ⟨-, rfl⟩
  · exact inv_resetHead hs
  · exact inv_respond_undriven (inv_resetTail hs) (fun _ => rfl) fun _ => rfl

theorem operandBytes_length (c : Config) (F : Frame) : (operandBytes c F).length = c.msgBytes := by
  simp [operandBytes]

/-- Between commands every operation keeps the invariants. -/
theorem inv_exec {i : Instr} {s t : State} (hs : s.Inv) (hidle : s.rphase = .idle)
    (h : exec i s = .next t) : t.Inv := by
  cases i with
  | rbWrite b => cases h; exact inv_writeSample hs b
  | rbAvail =>
    cases h
    have hlt := bufferedLength_lt (sampleLen_pos hs)
    exact inv_respond_count (inv_grantCredit hs hidle hlt) (lt_countW_of_lt_sampleLen hlt)
  | rbRead =>
    obtain ⟨-, rfl⟩ := exec_rbRead_next h
    exact inv_respond_undriven (inv_takeSample hs) (fun _ => rfl) fun _ => rfl
  | rbReset => exact inv_exec_rbReset hs h
  | dmProc b => cases h; exact inv_respond_undriven (inv_takeLevel hs b) (fun _ => rfl) fun _ => rfl
  | dmRxlen => cases h; exact inv_respond_count hs (lt_countW_of_le_msgBits hs.nbits_le)
  | dmGetmsg => cases h; exact inv_respond_frame hs hs.msg_length
  | dmReset => cases h; exact inv_respond_undriven (inv_clearDemod hs) (fun _ => rfl) fun _ => rfl
  | fdValidate F => cases h; exact inv_respond_undriven hs (fun _ => rfl) fun _ => rfl
  | fdDecode F => cases h; exact inv_respond_undriven hs (fun _ => rfl) fun _ => rfl
  | fdVdec F => cases h; exact inv_respond_undriven hs (fun _ => rfl) fun _ => rfl
  | fdRaw F => cases h; exact inv_respond_frame hs (operandBytes_length _ F)

/-- Settles O11: the built block has some admitted configuration (D27). -/
theorem invariantsHoldAtReset : Obligations.InvariantsHoldAtReset :=
  ⟨fun _ h => inv_resetWith h, inv_resetWith Config.implementation.isAdmitted⟩

/-- What every part of a step keeps, every step keeps (`step_cases`): the start of a turn and `rst`; the
tick and the second half of `RB.RESET`, which may come at any moment; and, between commands, every
operation. -/
theorem step_keeps {P : State → Prop} (hquiet : ∀ s, P s → P (quiet s))
    (hturn : ∀ s rest, P s → P (startTurn rest s)) (hcmds : ∀ s ws, P s → P (setCommands ws s))
    (hrst : ∀ s, P s → P (assertRst s)) (hwrite : ∀ s b, P s → P (writeSample b s))
    (hreset : ∀ s t, P s → exec .rbReset s = .next t → P t)
    (hexec : ∀ i s t, P s → s.rphase = .idle → exec i s = .next t → P t) {s t : State} (hs : P s)
    (h : step s = .next t) : P t := by
  rcases step_cases s with ⟨-, e⟩ | ⟨b, rest, -, e⟩ | ⟨rest, -, e⟩ | ⟨rest, -, -, e⟩ | ⟨rest, -, -, -, e⟩ |
    ⟨rest, w, ws, i, -, hidle, -, -, e⟩ | ⟨rest, w, ws, e', -, -, -, -, e⟩ <;> rw [e] at h
  · cases h; exact hquiet s hs
  · cases h; exact hwrite _ b (hturn s rest hs)
  · cases h; exact hrst _ (hturn s rest hs)
  · exact hreset _ t (hturn s rest hs) h
  · cases h; exact hturn s rest hs
  · exact hexec i _ t (hcmds _ ws (hturn s rest hs)) hidle h
  · cases h

/-- Settles O12: the lemmas of this part, one for each part of a step. -/
theorem everyStepKeepsInvariants : Obligations.EveryStepKeepsInvariants := fun _ _ hs h =>
  step_keeps (P := State.Inv) (fun _ hs => inv_quiet hs) (fun _ rest hs => inv_startTurn hs rest)
    (fun _ ws hs => inv_setCommands hs ws) (fun _ hs => inv_assertRst hs)
    (fun _ b hs => inv_writeSample hs b) (fun _ _ hs h => inv_exec_rbReset hs h)
    (fun _ _ _ hs hidle h => inv_exec hs hidle h) hs h

/-! ## Readable cells were written (R40, U7) -/

theorem written_congr {s t : State} (h : t.mem = s.mem) (i : Nat) : written t i = written s i := by
  simp [written, h]

/-- The property speaks of the ring buffer and the capacity only. -/
theorem readsWritten_of_sameRing {s t : State} (hs : s.ReadsWritten) (hring : s.sameRing t)
    (hcfg : t.cfg = s.cfg) : t.ReadsWritten := by
  obtain ⟨-, hmem, hhead, htail, hphase, hcredit⟩ := hring
  obtain ⟨hbelow, hbehind, hcredited⟩ := hs
  constructor <;> simpa [allWritten, written_congr hmem, hhead, htail, hphase, hcredit, hcfg]

/-- After `rst` nothing can be read, so nothing unwritten can. -/
theorem readsWritten_of_cleared {s : State} (hhead : s.head = 0) (htail : s.tail = 0)
    (hcredit : s.readCredit = 0) : s.ReadsWritten :=
  ⟨fun i hi => by omega, fun _ => .inl (by omega), fun h => by omega⟩

theorem written_writeSample_of_written {s : State} {i : Nat} (h : written s i = true) (b : Bit) :
    written (writeSample b s) i = true := by
  simp [written_writeSample, h]

theorem allWritten_writeSample {s : State} (h : allWritten s) (b : Bit) : allWritten (writeSample b s) :=
  fun i hi => written_writeSample_of_written (h i hi) b

/-- The write of the last cell, with all cells below written, leaves none unwritten. -/
theorem allWritten_of_wrap {s : State} (hs : s.ReadsWritten) (hwrap : s.head + 1 = s.cfg.sampleLen)
    (b : Bit) : allWritten (writeSample b s) := by
  intro i hi
  have hi' : i < s.head + 1 := hwrap ▸ hi
  rcases Nat.lt_succ_iff_lt_or_eq.1 hi' with hlt | rfl
  · exact written_writeSample_of_written (hs.below_head i hlt) b
  · simp [written_writeSample]

/-- An index that the producer had not yet reached stays ahead of the unwritten cells after one more
write: either `head` moved up, or it wrapped around and all cells are written. -/
theorem reached_writeSample {s : State} (hs : s.ReadsWritten) (hinv : s.Inv) (b : Bit) {k : Nat}
    (hk : k ≤ s.head ∨ allWritten s) :
    k ≤ (writeSample b s).head ∨ allWritten (writeSample b s) := by
  rcases hk with hk | hall
  · by_cases hwrap : s.head + 1 = s.cfg.sampleLen
    · exact .inr (allWritten_of_wrap hs hwrap b)
    · left
      rw [writeSample_head, indexInc_of_lt hinv.head_lt, if_neg hwrap]
      omega
  · exact .inr (allWritten_writeSample hall b)

theorem readsWritten_writeSample {s : State} (hs : s.ReadsWritten) (hinv : s.Inv) (b : Bit) :
    (writeSample b s).ReadsWritten where
  below_head i hi := by
    rw [writeSample_head, indexInc_of_lt hinv.head_lt] at hi
    split at hi
    · omega
    · rcases Nat.lt_succ_iff_lt_or_eq.1 hi with hlt | rfl
      · exact written_writeSample_of_written (hs.below_head i hlt) b
      · simp [written_writeSample]
  behind_tail hidle := reached_writeSample hs hinv b (hs.behind_tail hidle)
  credited hcredit := reached_writeSample hs hinv b (hs.credited hcredit)

/-- The count that `RB.AVAIL` returns reaches up to `head`, or wraps around. -/
theorem readsWritten_grantCredit {s : State} (hs : s.ReadsWritten) (hinv : s.Inv)
    (hidle : s.rphase = .idle) : (grantCredit (bufferedLength s) s).ReadsWritten :=
  { hs with
    credited := fun _ => by
      rcases hs.behind_tail hidle with hle | hall
      · left
        have hcount : bufferedLength s = s.head - s.tail :=
          (indexDiff_of_lt hinv.head_lt hinv.tail_lt).trans (if_pos hle)
        simp only [grantCredit_tail, grantCredit_readCredit, grantCredit_head, hcount]
        omega
      · exact .inr hall }

theorem somethingAvailable_iff (s : State) :
    somethingAvailable s = true ↔ 0 < s.readCredit ∨ s.head ≠ s.tail := by
  simp [somethingAvailable]

/-- Where a read is legal, `tail` is below `head` or all cells are written. -/
theorem tail_lt_head_of_available {s : State} (hs : s.ReadsWritten) (hidle : s.rphase = .idle)
    (ha : somethingAvailable s = true) : s.tail < s.head ∨ allWritten s := by
  rcases (somethingAvailable_iff s).1 ha with hcredit | hne
  · exact (hs.credited hcredit).imp_left fun h => by omega
  · exact (hs.behind_tail hidle).imp_left fun h => by omega

theorem indexInc_le_succ (n i : Nat) : indexInc n i ≤ i + 1 := Nat.mod_le _ _

theorem readsWritten_takeSample {s : State} (hs : s.ReadsWritten) (hidle : s.rphase = .idle)
    (ha : somethingAvailable s = true) : (takeSample s).ReadsWritten :=
  have hinc := indexInc_le_succ s.cfg.sampleLen s.tail
  { hs with
    behind_tail := fun _ => (tail_lt_head_of_available hs hidle ha).imp_left fun h => by
      simp only [takeSample_tail, takeSample_head]
      omega
    credited := fun hcredit => by
      rw [takeSample_readCredit] at hcredit
      refine (hs.credited (by omega)).imp_left fun h => ?_
      simp only [takeSample_tail, takeSample_readCredit, takeSample_head]
      omega }

/-- `RB.RESET` keeps it: `head` goes to 0 first, while nothing is asked of `tail` (R118). -/
theorem readsWritten_exec_rbReset {s t : State} (hs : s.ReadsWritten) (h : exec .rbReset s = .next t) :
    t.ReadsWritten := by
  rcases exec_rbReset_next h with ⟨-, rfl⟩ | ⟨-, rfl⟩
  · exact ⟨fun i hi => by simp at hi, fun hp => by simp at hp, fun hc => by simp at hc⟩
  · exact ⟨hs.below_head, fun _ => .inl (Nat.zero_le _), fun hc => by simp at hc⟩

/-- Between commands every operation keeps it; DM and FD leave the ring buffer alone. -/
theorem readsWritten_exec {i : Instr} {s t : State} (hs : s.ReadsWritten) (hinv : s.Inv)
    (hidle : s.rphase = .idle) (h : exec i s = .next t) : t.ReadsWritten := by
  have hanswer : ∀ {drive u}, u.ReadsWritten → (respond drive u).ReadsWritten := fun {drive u} hu =>
    readsWritten_of_sameRing hu (respond_keeps_state drive u).1 rfl
  cases i with
  | rbWrite b => cases h; exact readsWritten_writeSample hs hinv b
  | rbAvail => cases h; exact hanswer (readsWritten_grantCredit hs hinv hidle)
  | rbRead =>
    obtain ⟨ha, rfl⟩ := exec_rbRead_next h
    exact hanswer (readsWritten_takeSample hs hidle ha)
  | rbReset => exact readsWritten_exec_rbReset hs h
  | dmProc b =>
    cases h
    exact hanswer (readsWritten_of_sameRing hs (sameRing_takeLevel b s) (takeLevel_cfg b s))
  | dmRxlen => cases h; exact hanswer hs
  | dmGetmsg => cases h; exact hanswer hs
  | dmReset => cases h; exact hanswer (readsWritten_of_sameRing hs (sameRing_clearDemod s) rfl)
  | fdValidate F => cases h; exact hanswer hs
  | fdDecode F => cases h; exact hanswer hs
  | fdVdec F => cases h; exact hanswer hs
  | fdRaw F => cases h; exact hanswer hs

/-- Settles O13. -/
theorem readsWrittenAtReset : Obligations.ReadsWrittenAtReset := fun _ =>
  readsWritten_of_cleared rfl rfl rfl

/-- Settles O14: together with the invariants of R35, which bound the indices. -/
theorem everyStepKeepsReadsWritten : Obligations.EveryStepKeepsReadsWritten := fun _ _ hinv hs h =>
  And.right <| step_keeps (P := fun s => s.Inv ∧ s.ReadsWritten)
    (fun _ ⟨hinv, hs⟩ => ⟨inv_quiet hinv, { hs with }⟩)
    (fun _ rest ⟨hinv, hs⟩ => ⟨inv_startTurn hinv rest, { hs with }⟩)
    (fun _ ws ⟨hinv, hs⟩ => ⟨inv_setCommands hinv ws, { hs with }⟩)
    (fun _ ⟨hinv, _⟩ => ⟨inv_assertRst hinv, readsWritten_of_cleared rfl rfl rfl⟩)
    (fun _ b ⟨hinv, hs⟩ => ⟨inv_writeSample hinv b, readsWritten_writeSample hs hinv b⟩)
    (fun _ _ ⟨hinv, hs⟩ h => ⟨inv_exec_rbReset hinv h, readsWritten_exec_rbReset hs h⟩)
    (fun _ _ _ ⟨hinv, hs⟩ hidle h => ⟨inv_exec hinv hidle h, readsWritten_exec hs hinv hidle h⟩)
    ⟨hinv, hs⟩ h

/-- Settles O15: a legal read is below `head`, or all cells are written. -/
theorem noReadSeesPowerUpContents : Obligations.NoReadSeesPowerUpContents := by
  intro s t hinv hs hidle h
  obtain ⟨ha, -⟩ := exec_rbRead_next h
  rcases tail_lt_head_of_available hs hidle ha with hlt | hall
  · exact hs.below_head _ hlt
  · exact hall _ hinv.tail_lt

end Sys2Proof.InvariantProofs

/-! Proofs about reset, one step and the command port (`10_state.md` R40, `20_memory.md` R60 to R62,
`30_encoding.md` R88). First one equation for each kind of turn, then when an operation or a step is
refused, then the statements. -/

namespace Sys2Proof.StepProofs
open Sys2Proof Sys2Proof.Machine Sys2Proof.Laws Sys2Proof.EncodingProofs Sys2Proof.InvariantProofs

/-! ## One equation for each kind of turn -/

theorem step_nothing {s : State} (hs : s.sched = []) : step s = .next (quiet s) := by
  simp [step, nextTurn, hs]

theorem step_tick {s : State} {b : Bit} {rest : List Turn} (hs : s.sched = .tick b :: rest) :
    step s = exec (.rbWrite b) (startTurn rest s) := by
  simp [step, nextTurn, hs, takeTurn, producerTurn, decodeSample]

theorem step_rst {s : State} {rest : List Turn} (hs : s.sched = .rst :: rest) :
    step s = .next (assertRst (startTurn rest s)) := by
  simp [step, nextTurn, hs, takeTurn]

theorem step_secondHalf {s : State} {rest : List Turn} (hs : s.sched = .consumer :: rest)
    (hp : s.rphase = .headCleared) : step s = exec .rbReset (startTurn rest s) := by
  simp [step, nextTurn, hs, takeTurn, consumerTurn, hp]

theorem step_noCommand {s : State} {rest : List Turn} (hs : s.sched = .consumer :: rest)
    (hp : s.rphase = .idle) (hc : s.cmds = []) : step s = .next (startTurn rest s) := by
  simp [step, nextTurn, hs, takeTurn, consumerTurn, hp, acceptCommand, hc]

theorem step_presented {s : State} {rest : List Turn} {w : Command} {ws : List Command}
    (hs : s.sched = .consumer :: rest) (hp : s.rphase = .idle) (hc : s.cmds = w :: ws) :
    step s = runCommand w (setCommands ws (startTurn rest s)) := by
  simp [step, nextTurn, hs, takeTurn, consumerTurn, hp, acceptCommand, hc]

theorem runCommand_ok {s : State} {w : Command} {i : Instr} (hd : decodeCommand s.cfg w = .ok i) :
    runCommand w s = exec i s := by
  simp [runCommand, hd]

theorem runCommand_reserved {s : State} {w : Command}
    (hd : decodeCommand s.cfg w = .error (.reserved w.cmd)) :
    runCommand w s = .refused (.reservedCommand w.cmd) := by
  simp [runCommand, hd]

/-! ## Refusals -/

/-- R116, U1: an operation is refused only as an `RB.READ` where both wordings of its precondition
fail. -/
theorem exec_eq_refused_iff (i : Instr) (s : State) (r : Refusal) :
    exec i s = .refused r ↔
      i = .rbRead ∧ r = .readNothingAvailable ∧ s.head = s.tail ∧ s.readCredit = 0 := by
  cases i with
  | rbRead =>
    cases ha : somethingAvailable s with
    | true =>
      have hsome := (somethingAvailable_iff s).1 ha
      rw [exec_rbRead_available ha]
      exact iff_of_false (by simp) fun ⟨_, _, hempty, hcredit⟩ => by omega
    | false =>
      have hnone : ¬ (0 < s.readCredit ∨ s.head ≠ s.tail) := by
        simp [← somethingAvailable_iff, ha]
      have hempty : s.head = s.tail ∧ s.readCredit = 0 := by omega
      rw [exec_rbRead_nothing ha]
      simp [hempty, eq_comm]
  | rbReset =>
    cases hp : s.rphase with
    | idle => simp [exec_rbReset_idle hp]
    | headCleared => simp [exec_rbReset_headCleared hp]
  | _ => simp

/-- Settles O19. -/
theorem rbReadRefusedWhenNothingAvailable : Obligations.RbReadRefusedWhenNothingAvailable := fun s => by
  simpa using exec_eq_refused_iff .rbRead s .readNothingAvailable

/-- A presented command is refused as its operation is, or as reserved (R88). -/
theorem runCommand_eq_refused_iff (w : Command) (s : State) (r : Refusal) :
    runCommand w s = .refused r ↔
      (r = .readNothingAvailable ∧ decodeCommand s.cfg w = .ok .rbRead ∧ s.head = s.tail ∧
        s.readCredit = 0) ∨
      (r = .reservedCommand w.cmd ∧ decodeCommand s.cfg w = .error (.reserved w.cmd)) := by
  cases hd : decodeCommand s.cfg w with
  | ok i =>
    rw [runCommand_ok hd, exec_eq_refused_iff]
    simp [and_left_comm]
  | error e =>
    obtain rfl := decodeCommand_error hd
    rw [runCommand_reserved hd]
    simp [eq_comm]

/-- The same of the step in which the consumer presents it. -/
theorem step_presented_eq_refused_iff {s : State} {rest : List Turn} {w : Command} {ws : List Command}
    (hs : s.sched = .consumer :: rest) (hp : s.rphase = .idle) (hc : s.cmds = w :: ws) (r : Refusal) :
    step s = .refused r ↔
      (r = .readNothingAvailable ∧ decodeCommand s.cfg w = .ok .rbRead ∧ s.head = s.tail ∧
        s.readCredit = 0) ∨
      (r = .reservedCommand w.cmd ∧ decodeCommand s.cfg w = .error (.reserved w.cmd)) := by
  rw [step_presented hs hp hc]
  exact runCommand_eq_refused_iff w _ r

/-- Settles O10: only a presented command can be refused; every other turn completes. -/
theorem stepStopsOnlyOnEmptyReadOrReservedByte :
    Obligations.StepStopsOnlyOnEmptyReadOrReservedByte := by
  refine ⟨fun _ f => (nomatch f), fun s r => ⟨fun h => ?_, ?_⟩⟩
  · rcases step_cases s with ⟨-, e⟩ | ⟨b, rest, -, e⟩ | ⟨rest, -, e⟩ | ⟨rest, -, -, e⟩ |
      ⟨rest, -, -, -, e⟩ | ⟨rest, w, ws, i, hs, hp, hc, -, -⟩ | ⟨rest, w, ws, e', hs, hp, hc, -, -⟩
    · simp [e] at h
    · simp [e] at h
    · simp [e] at h
    · simp [e, exec_eq_refused_iff] at h
    · simp [e] at h
    · exact ⟨rest, w, ws, hs, hp, hc, (step_presented_eq_refused_iff hs hp hc r).1 h⟩
    · exact ⟨rest, w, ws, hs, hp, hc, (step_presented_eq_refused_iff hs hp hc r).1 h⟩
  · rintro ⟨rest, w, ws, hs, hp, hc, hr⟩
    exact (step_presented_eq_refused_iff hs hp hc r).2 hr

/-! ## Reset -/

theorem written_of_mem_nil {s : State} (h : s.mem = []) (i : Nat) : written s i = false := by
  simp [written, h, Memory.lookup]

/-- Settles O1: a frame has at least two bytes, so none is complete with no bit received. -/
theorem resetStateAsSpecified : Obligations.ResetStateAsSpecified := by
  refine ⟨fun c hadm => ⟨_, rfl, rfl, rfl, rfl, rfl, rfl, rfl, rfl, rfl, rfl, rfl, ?_,
    written_of_mem_nil rfl⟩, Config.implementation.isAdmitted, rfl⟩
  have hbytes := two_le_msgBytes hadm
  have hbits : 0 ≠ c.msgBits := by
    rw [Config.msgBits]
    omega
  simpa [frameReady] using hbits

/-- Settles O2. -/
theorem rstAtAnyMomentRestoresReset : Obligations.RstAtAnyMomentRestoresReset := fun _ _ hs =>
  ⟨_, step_rst hs, rfl, rfl, rfl, rfl, rfl, rfl, rfl, written_of_mem_nil rfl, rfl, rfl, rfl, rfl, rfl⟩

/-! ## The step and the command port -/

/-- Settles O8: one equation for each clause. -/
theorem stepRunsDecodedInstruction : Obligations.StepRunsDecodedInstruction :=
  ⟨fun _ _ _ hs => step_tick hs,
    fun _ _ _ _ _ hs hp hc hd => (step_presented hs hp hc).trans (runCommand_ok hd),
    fun _ _ hs hp => step_secondHalf hs hp, fun _ _ hs hp hc => step_noCommand hs hp hc,
    fun _ hs => step_nothing hs⟩

/-- A reserved byte that the consumer presents is refused (R88). -/
theorem step_reserved {s : State} {rest : List Turn} {w : Command} {ws : List Command} {e : DecodeError}
    (hs : s.sched = .consumer :: rest) (hp : s.rphase = .idle) (hc : s.cmds = w :: ws)
    (hd : decodeCommand s.cfg w = .error e) : step s = .refused (.reservedCommand w.cmd) := by
  obtain rfl := decodeCommand_error hd
  exact (step_presented hs hp hc).trans (runCommand_reserved hd)

/-- Settles O55. -/
theorem reservedByteRefused : Obligations.ReservedByteRefused := fun _ _ _ _ hs hp hc hbyte =>
  step_reserved hs hp hc (decodeCommand_reserved hbyte)

/-- Settles O9: the step refuses the byte, so the rendering answers it. -/
theorem reservedByteAnsweredIllegal : Obligations.ReservedByteAnsweredIllegal := by
  intro s rest w ws e hs hp hc hd
  have hstep := step_reserved hs hp hc hd
  rcases hardwareTurn_cases s with ⟨hnot, -⟩ | ⟨rest', w', ws', -, hs', -, hc', -, -, hanswer⟩
  · exact absurd hstep (hnot w.cmd)
  · obtain ⟨-, rfl⟩ := List.cons.inj (hs'.symm.trans hs)
    obtain ⟨rfl, rfl⟩ := List.cons.inj (hc'.symm.trans hc)
    exact ⟨_, hanswer, ⟨fun _ => rfl, rfl, rfl, rfl, rfl, rfl⟩, ⟨rfl, rfl, rfl, rfl⟩, rfl, rfl, rfl, rfl,
      rfl, rfl⟩

/-- Settles O56: by the two cases of the rendering. -/
theorem hardwareTurnAgreesWithStep : Obligations.HardwareTurnAgreesWithStep := by
  refine ⟨fun s hnot => ?_, fun s b h => ?_⟩
  · rcases hardwareTurn_cases s with ⟨-, h⟩ | ⟨_, w, _, _, _, _, _, _, h, _⟩
    · exact h
    · exact absurd h (hnot w.cmd)
  · rcases hardwareTurn_cases s with ⟨hnot, heq⟩ | ⟨_, _, _, _, _, _, _, _, _, heq⟩
    · exact hnot b (heq.symm.trans h)
    · rw [heq] at h
      cases h

/-- A step takes the command off the list where the consumer presents one it may, and else none (R11). -/
theorem step_cmds {s t : State} (h : step s = .next t) :
    ((cmdValid s = true ∧ cmdReady s = true) ∧ ∃ w, s.cmds = w :: t.cmds) ∨
      (¬ (cmdValid s = true ∧ cmdReady s = true) ∧ t.cmds = s.cmds) := by
  rw [handshake_iff]
  rcases step_cases s with ⟨hs, e⟩ | ⟨b, rest, hs, e⟩ | ⟨rest, hs, e⟩ | ⟨rest, hs, hp, e⟩ |
    ⟨rest, hs, hp, hc, e⟩ | ⟨rest, w, ws, i, hs, hp, hc, -, e⟩ | ⟨rest, w, ws, e', -, -, -, -, e⟩ <;>
    rw [e] at h
  · cases h; exact .inr ⟨by simp [hs], rfl⟩
  · cases h; exact .inr ⟨by simp [hs], rfl⟩
  · cases h; exact .inr ⟨by simp [hs], rfl⟩
  · exact .inr ⟨by simp [hp], (exec_cmds h).trans (startTurn_cmds rest s)⟩
  · cases h; exact .inr ⟨by simp [hc], rfl⟩
  · exact .inl ⟨⟨rest, w, ws, hs, hp, hc⟩, w, by rw [exec_cmds h, setCommands_cmds, hc]⟩
  · cases h

/-- Settles O54: a list is never its own tail, so the two cases of `step_cmds` exclude each other. -/
theorem commandAcceptedOnHandshake : Obligations.CommandAcceptedOnHandshake := by
  intro s t h
  rcases step_cmds h with ⟨hshake, htaken⟩ | ⟨hno, hkept⟩
  · exact ⟨iff_of_true htaken hshake, fun hno => absurd hshake hno⟩
  · refine ⟨iff_of_false ?_ hno, fun _ => hkept⟩
    rintro ⟨w, hw⟩
    rw [hkept] at hw
    exact List.cons_ne_self w s.cmds hw.symm

end Sys2Proof.StepProofs

/-! Proofs about sequences of ring buffer operations (`40_ring_buffer.md`, `20_memory.md` R63). First what
any number of writes does to the indices and the cells, then how each operation moves the queue of unread
samples (`State.Holds`), then the statements. -/

namespace Sys2Proof.FifoProofs
open Sys2Proof Sys2Proof.Machine Sys2Proof.RingBufferProofs Sys2Proof.DemodulatorProofs
open Sys2Proof.FrameDecoderProofs Sys2Proof.InvariantProofs Sys2Proof.StepProofs

/-! ## Frames -/

theorem sameDemod_refl (s : State) : s.sameDemod s := ⟨rfl, rfl, rfl, rfl⟩

theorem sameDemod_trans {s t u : State} (hst : s.sameDemod t) (htu : t.sameDemod u) : s.sameDemod u := by
  obtain ⟨hlvl, hrun, hnbits, hmsg⟩ := hst
  obtain ⟨hlvl', hrun', hnbits', hmsg'⟩ := htu
  exact ⟨hlvl'.trans hlvl, hrun'.trans hrun, hnbits'.trans hnbits, hmsg'.trans hmsg⟩

/-! ## Index arithmetic -/

/-- Distances that differ by less than the capacity lead to different cells. -/
theorem add_mod_ne {n k m : Nat} (h : Nat) (hkm : k < m) (hmn : m < k + n) :
    (h + m) % n ≠ (h + k) % n := by
  intro heq
  have hzero := Nat.sub_mod_eq_zero_of_mod_eq heq
  rw [Nat.add_sub_add_left, Nat.mod_eq_of_lt (by omega)] at hzero
  omega

/-- Moving the first index by `m` moves the difference by `m`, modulo the capacity. -/
theorem indexDiff_add {n : Nat} (hn : 0 < n) (h t m : Nat) :
    indexDiff n ((h + m) % n) t = (indexDiff n h t + m) % n := by
  apply Int.ofNat_inj.1
  rw [indexDiff_cast hn, Int.natCast_emod, Int.natCast_emod, Int.emod_sub_emod]
  push_cast
  rw [indexDiff_cast hn, Int.emod_add_emod]
  congr 1
  ring

/-- The first index is the second moved by the difference. -/
theorem add_indexDiff {n h t : Nat} (hh : h < n) (ht : t < n) : (t + indexDiff n h t) % n = h := by
  rw [indexDiff_of_lt hh ht]
  split
  · rw [Nat.add_sub_cancel' ‹_›, Nat.mod_eq_of_lt hh]
  · rw [show t + (h + n - t) = h + n by omega, Nat.add_mod_right, Nat.mod_eq_of_lt hh]

theorem indexDiff_self (n h : Nat) : indexDiff n h h = 0 := by simp [indexDiff]

/-! ## Any number of writes -/

/-- The machine after the producer has written these samples, in order. -/
def writes (bs : List Bit) (s : State) : State := bs.foldl (fun t b => writeSample b t) s

@[simp] theorem writes_nil (s : State) : writes [] s = s := rfl

theorem writes_concat (bs : List Bit) (b : Bit) (s : State) :
    writes (bs ++ [b]) s = writeSample b (writes bs s) := by
  simp [writes]

/-- Writes are never held back (R111): a list of them always completes. -/
theorem writeAll_eq (bs : List Bit) (s : State) : writeAll bs s = .next (writes bs s) := by
  induction bs generalizing s with
  | nil => rfl
  | cons b bs ih => exact ih (writeSample b s)

/-- The producer writes `mem` and `head` and nothing else (R21). -/
theorem writes_outside (bs : List Bit) (s : State) :
    ∃ m h, writes bs s = { s with mem := m, head := h } := by
  induction bs generalizing s with
  | nil => exact ⟨s.mem, s.head, rfl⟩
  | cons b bs ih =>
    obtain ⟨m, h, heq⟩ := ih (writeSample b s)
    exact ⟨m, h, heq⟩

section
variable (bs : List Bit) (s : State)

@[simp] theorem writes_tail : (writes bs s).tail = s.tail := by
  obtain ⟨m, h, heq⟩ := writes_outside bs s
  rw [heq]

@[simp] theorem writes_rphase : (writes bs s).rphase = s.rphase := by
  obtain ⟨m, h, heq⟩ := writes_outside bs s
  rw [heq]

@[simp] theorem writes_cfg : (writes bs s).cfg = s.cfg := by
  obtain ⟨m, h, heq⟩ := writes_outside bs s
  rw [heq]

@[simp] theorem writes_readCredit : (writes bs s).readCredit = s.readCredit := by
  obtain ⟨m, h, heq⟩ := writes_outside bs s
  rw [heq]

theorem sameDemod_writes : s.sameDemod (writes bs s) := by
  obtain ⟨m, h, heq⟩ := writes_outside bs s
  rw [heq]
  exact ⟨rfl, rfl, rfl, rfl⟩

end

theorem inv_writes {s : State} (hs : s.Inv) (bs : List Bit) : (writes bs s).Inv := by
  induction bs generalizing s with
  | nil => exact hs
  | cons b bs ih => exact ih (inv_writeSample hs b)

/-- `head` moves by the number of writes (R110, R120). -/
theorem writes_head (bs : List Bit) {s : State} (hhead : s.head < s.cfg.sampleLen) :
    (writes bs s).head = (s.head + bs.length) % s.cfg.sampleLen := by
  induction bs using List.reverseRecOn with
  | nil => exact (Nat.mod_eq_of_lt hhead).symm
  | append_singleton bs b ih =>
    rw [writes_concat, writeSample_head, ih, writes_cfg, indexInc, Nat.mod_add_mod,
      List.length_append, List.length_singleton, Nat.add_assoc]

/-- R26: the buffered length grows by the number of writes, modulo the capacity. -/
theorem bufferedLength_writes (bs : List Bit) {s : State} (hhead : s.head < s.cfg.sampleLen) :
    bufferedLength (writes bs s) = (bufferedLength s + bs.length) % s.cfg.sampleLen := by
  rw [bufferedLength, writes_head bs hhead, writes_cfg, writes_tail,
    indexDiff_add (Nat.zero_lt_of_lt hhead), bufferedLength]

/-- A cell that no write reaches keeps its bit. -/
theorem sampleAt_writes_of_ne (bs : List Bit) {s : State} (hhead : s.head < s.cfg.sampleLen) {a : Nat}
    (ha : ∀ k, k < bs.length → a ≠ (s.head + k) % s.cfg.sampleLen) :
    sampleAt (writes bs s) a = sampleAt s a := by
  induction bs using List.reverseRecOn with
  | nil => rfl
  | append_singleton bs b ih =>
    have hlast : a ≠ (writes bs s).head := by
      rw [writes_head bs hhead]
      exact ha bs.length (by simp)
    rw [writes_concat, sampleAt_writeSample, if_neg hlast]
    exact ih fun k hk => ha k (by simp; omega)

/-- The last `SAMPLE_LEN` samples written stand in their cells (R111). -/
theorem sampleAt_writes_of_last (bs : List Bit) {s : State} (hhead : s.head < s.cfg.sampleLen) {k : Nat}
    (hk : k < bs.length) (hlast : bs.length ≤ k + s.cfg.sampleLen) :
    some (sampleAt (writes bs s) ((s.head + k) % s.cfg.sampleLen)) = bs[k]? := by
  induction bs using List.reverseRecOn with
  | nil => simp at hk
  | append_singleton bs b ih =>
    rw [List.length_append, List.length_singleton] at hk hlast
    rw [writes_concat, sampleAt_writeSample, writes_head bs hhead]
    rcases Nat.lt_succ_iff_lt_or_eq.1 hk with hlt | rfl
    · rw [if_neg (add_mod_ne s.head hlt (by omega)).symm, ih hlt (by omega),
        List.getElem?_append_left hlt]
    · simp

/-! ## The queue of unread samples -/

/-- `Holds` speaks of the ring buffer and the parameters only: a response changes neither. -/
theorem holds_respond {s : State} {q : List Bit} (h : s.Holds q) (drive : Response → Response) :
    (respond drive s).Holds q := { h with }

theorem holds_grantCredit {s : State} {q : List Bit} (h : s.Holds q) (n : Nat) :
    (grantCredit n s).Holds q := { h with }

theorem holds_quiet {s : State} {q : List Bit} (h : s.Holds q) : (quiet s).Holds q := { h with }

theorem holds_writes {s : State} {q bs : List Bit} (hs : s.Inv) (h : s.Holds q)
    (hcap : q.length + bs.length < s.cfg.sampleLen) : (writes bs s).Holds (q ++ bs) where
  at_rest := by rw [writes_rphase, h.at_rest]
  below_capacity := by simpa using hcap
  count := by
    rw [bufferedLength_writes bs hs.head_lt, h.count, Nat.mod_eq_of_lt hcap, List.length_append]
  samples j hj := by
    have hhead : s.head = (s.tail + q.length) % s.cfg.sampleLen := by
      rw [← h.count]
      exact (add_indexDiff hs.head_lt hs.tail_lt).symm
    have hcell : ∀ k, (s.head + k) % s.cfg.sampleLen = (s.tail + (q.length + k)) % s.cfg.sampleLen :=
      fun k => by rw [hhead, Nat.mod_add_mod, Nat.add_assoc]
    rw [List.length_append] at hj
    rw [writes_tail, writes_cfg]
    by_cases hold : j < q.length
    · rw [List.getElem?_append_left hold, ← h.samples j hold,
        sampleAt_writes_of_ne bs hs.head_lt fun k hk => ?_]
      rw [hcell]
      exact (add_mod_ne s.tail (by omega) (by omega)).symm
    · obtain ⟨k, rfl⟩ := Nat.exists_eq_add_of_le (Nat.le_of_not_lt hold)
      rw [List.getElem?_append_right (by omega), Nat.add_sub_cancel_left, ← hcell]
      exact sampleAt_writes_of_last bs hs.head_lt (by omega) (by omega)

/-- A buffer that holds a sample has something available (D21). -/
theorem available_of_holds {s : State} {x : Bit} {q : List Bit} (h : s.Holds (x :: q)) :
    somethingAvailable s = true := by
  refine (somethingAvailable_iff s).2 (.inr fun heq => ?_)
  have hcount := h.count
  rw [bufferedLength, heq, indexDiff_self] at hcount
  simp at hcount

/-- The oldest unread sample stands at `tail` (R116). -/
theorem sampleAt_tail_of_holds {s : State} {x : Bit} {q : List Bit} (hs : s.Inv)
    (h : s.Holds (x :: q)) : sampleAt s s.tail = x := by
  have hfirst := h.samples 0 (by simp)
  rw [Nat.add_zero, Nat.mod_eq_of_lt hs.tail_lt] at hfirst
  simpa using hfirst

theorem holds_takeSample {s : State} {x : Bit} {q : List Bit} (hs : s.Inv) (h : s.Holds (x :: q)) :
    (takeSample s).Holds q where
  at_rest := h.at_rest
  below_capacity := Nat.lt_of_succ_lt h.below_capacity
  count := by
    have hcount := h.count
    have hlt : indexInc s.cfg.sampleLen s.tail < s.cfg.sampleLen := indexInc_lt (sampleLen_pos hs) _
    have hhead := hs.head_lt
    have htail := hs.tail_lt
    rw [bufferedLength, indexDiff_of_lt hhead htail, List.length_cons] at hcount
    rw [bufferedLength, takeSample_head, takeSample_tail, takeSample_cfg, indexDiff_of_lt hhead hlt,
      indexInc_of_lt htail]
    split at hcount <;> split <;> split <;> omega
  samples j hj := by
    rw [takeSample_tail, takeSample_cfg, indexInc, Nat.mod_add_mod, Nat.add_assoc, Nat.add_comm 1]
    exact h.samples (j + 1) (Nat.succ_lt_succ hj)

/-! ## Reset (R118, R119) -/

/-- What is written from the first step of `RB.RESET` on is what the buffer holds after the second: it
stands in the cells from 0 on. -/
theorem holds_resetTail_writes {s : State} {bs : List Bit} (hhead : s.head = 0)
    (hlen : bs.length < s.cfg.sampleLen) : (resetTail (writes bs s)).Holds bs := by
  have hzero : s.head < s.cfg.sampleLen := by omega
  have hend : (writes bs s).head = bs.length := by
    rw [writes_head bs hzero, hhead, Nat.zero_add, Nat.mod_eq_of_lt hlen]
  refine ⟨rfl, by simpa using hlen, ?_, fun j hj => ?_⟩
  · rw [bufferedLength, resetTail_head, resetTail_tail, resetTail_cfg, writes_cfg, hend,
      indexDiff_of_lt hlen (by omega), if_pos (Nat.zero_le _), Nat.sub_zero]
  · have hcell := sampleAt_writes_of_last bs hzero hj (by omega)
    rw [hhead] at hcell
    rw [resetTail_tail, resetTail_cfg, writes_cfg]
    exact hcell

/-! ## Sequences of operations -/

theorem execAll_append (is js : List Instr) (s : State) :
    execAll (is ++ js) s = andThen (execAll is s) (execAll js) := by
  induction is generalizing s with
  | nil => rfl
  | cons i is ih =>
    rw [List.cons_append, execAll, execAll]
    cases exec i s with
    | next t => exact ih t
    | fault f => cases f
    | refused r => rfl

theorem execAll_writes (bs : List Bit) (s : State) :
    execAll (bs.map fun b => .rbWrite b) s = .next (writes bs s) := writeAll_eq bs s

/-- Settles O18. -/
theorem rbReadReturnsOldestSample : Obligations.RbReadReturnsOldestSample := fun s hsome =>
  ⟨_, exec_rbRead_available ((somethingAvailable_iff s).2 hsome), answers_respond rfl rfl, rfl, rfl,
    fun _ => rfl, rfl, rfl, rfl, ⟨rfl, rfl, rfl, rfl⟩, ⟨rfl, rfl, rfl, rfl⟩⟩

/-- Settles O20. -/
theorem rbResetTakesTwoSteps : Obligations.RbResetTakesTwoSteps := fun _ =>
  ⟨fun hidle => ⟨_, exec_rbReset_idle hidle, rfl, rfl, rfl, rfl, fun _ => rfl, rfl, rfl,
      ⟨rfl, rfl, rfl, rfl⟩, ⟨rfl, rfl, rfl, rfl⟩⟩,
    fun hcleared => ⟨_, exec_rbReset_headCleared hcleared, rfl, rfl, rfl, rfl, fun _ => rfl,
      answers_respond_id _, rfl, ⟨rfl, rfl, rfl, rfl⟩, ⟨rfl, rfl, rfl, rfl⟩⟩⟩

/-- Settles O21: the samples of the window stand from cell 0 on, those after it follow. -/
theorem resetWindowKeepsNewSamples : Obligations.ResetWindowKeepsNewSamples := by
  intro s during after hs hidle hcap
  have hwindow : (resetTail (writes during (resetHead s))).Holds during :=
    holds_resetTail_writes rfl (by rw [resetHead_cfg]; omega)
  have hinv : (respond id (resetTail (writes during (resetHead s)))).Inv :=
    inv_respond_undriven (inv_resetTail (inv_writes (inv_resetHead hs) during)) (fun _ => rfl)
      fun _ => rfl
  have hcleared : (writes during (resetHead s)).rphase = .headCleared := by simp
  refine ⟨writes after (respond id (resetTail (writes during (resetHead s)))), ?_, ?_, ?_⟩
  · simp [execAll_append, execAll, execAll_writes, exec_rbReset_idle hidle,
      exec_rbReset_headCleared hcleared]
  · exact holds_writes hinv (holds_respond hwindow id) (by simpa using hcap)
  · exact sameDemod_trans (sameDemod_writes during (resetHead s))
      (sameDemod_writes after (respond id (resetTail (writes during (resetHead s)))))

/-- Settles O23. -/
theorem writesOverwriteWithoutBound : Obligations.WritesOverwriteWithoutBound := fun s bs hs =>
  ⟨writes bs s, writeAll_eq bs s, bufferedLength_writes bs hs.head_lt, writes_head bs hs.head_lt,
    writes_tail bs s, fun _ hk hlast => sampleAt_writes_of_last bs hs.head_lt hk hlast,
    fun _ ha => sampleAt_writes_of_ne bs hs.head_lt ha, sameDemod_writes bs s⟩

/-- One operation goes on with the ideal queue: the machine shows what the queue shows and then holds what
the queue holds. -/
theorem fifo_step {op : FifoOp} {ops : List FifoOp} {s : State} {q q' : List Bit} {outs : List FifoOut}
    (hs : s.Inv) (h : s.Holds q) (hideal : idealFifo s.cfg.sampleLen (op :: ops) q = some (q', outs)) :
    ∃ t q₁ rest, exec op.instr s = .next t ∧ t.Inv ∧ t.Holds q₁ ∧ t.cfg = s.cfg ∧ s.sameDemod t ∧
      idealFifo s.cfg.sampleLen ops q₁ = some (q', rest) ∧ fifoShown op t ++ rest = outs := by
  cases op with
  | write b =>
    rw [idealFifo] at hideal
    split at hideal
    · next hcap =>
      exact ⟨_, q ++ [b], outs, exec_rbWrite b s, inv_writeSample hs b, holds_writes (bs := [b]) hs h hcap,
        rfl,
        sameDemod_writeSample b s, hideal, rfl⟩
    · cases hideal
  | avail =>
    rw [idealFifo, Option.map_eq_some_iff] at hideal
    obtain ⟨⟨q₁, rest⟩, hrest, heq⟩ := hideal
    obtain ⟨rfl, rfl⟩ := Prod.mk.inj heq
    exact ⟨_, q, rest, exec_rbAvail s, inv_exec hs h.at_rest (exec_rbAvail s),
      holds_respond (holds_grantCredit h _) _, rfl, ⟨rfl, rfl, rfl, rfl⟩, hrest,
      by simp [fifoShown, shownCount, driveCount, h.count]⟩
  | read =>
    cases q with
    | nil => cases hideal
    | cons x q =>
      rw [idealFifo, Option.map_eq_some_iff] at hideal
      obtain ⟨⟨q₁, rest⟩, hrest, heq⟩ := hideal
      obtain ⟨rfl, rfl⟩ := Prod.mk.inj heq
      have hexec := exec_rbRead_available (available_of_holds h)
      exact ⟨_, q, rest, hexec, inv_exec hs h.at_rest hexec, holds_respond (holds_takeSample hs h) _, rfl,
        ⟨rfl, rfl, rfl, rfl⟩, hrest,
        by simp [fifoShown, shownBit, driveBit, sampleAt_tail_of_holds hs h]⟩

/-- Settles O24: by induction on the operations, with the unread samples as the state of the queue. -/
theorem ringBufferIsFifo : Obligations.RingBufferIsFifo := by
  intro ops
  induction ops with
  | nil =>
    intro s q q' outs _ h hideal
    cases hideal
    exact ⟨s, rfl, h, sameDemod_refl s⟩
  | cons op ops ih =>
    intro s q q' outs hs h hideal
    obtain ⟨t, q₁, rest, hexec, ht, hq, hcfg, hdemod, hrest, houts⟩ := fifo_step hs h hideal
    obtain ⟨u, hrun, hu, hdemod'⟩ := ih t q₁ q' rest ht hq (by rwa [hcfg])
    exact ⟨u, by simp [machineFifo, hexec, hrun, houts], hu, sameDemod_trans hdemod hdemod'⟩

/-- Settles O48. -/
theorem producerNeverReadsTail : Obligations.ProducerNeverReadsTail :=
  fun _ _ _ _ _ _ _ _ _ _ _ => ⟨_, _, exec_rbWrite _ _, exec_rbWrite _ _, rfl, rfl, rfl⟩

end Sys2Proof.FifoProofs

/-! Proofs about sequences of samples in the demodulator (`41_demodulator.md`). First that its step depends
on the demodulator and the parameters only, then what any number of samples of one level does, then the
bits received so far as the runs go by (R144), then the statements. -/

namespace Sys2Proof.PatternProofs
open Sys2Proof Sys2Proof.Machine Sys2Proof.RingBufferProofs Sys2Proof.DemodulatorProofs
open Sys2Proof.FrameDecoderProofs Sys2Proof.EncodingProofs Sys2Proof.InvariantProofs Sys2Proof.FifoProofs

/-! ## Frames -/

theorem sameRing_refl (s : State) : s.sameRing s := ⟨fun _ => rfl, rfl, rfl, rfl, rfl, rfl⟩

theorem sameRing_trans {s t u : State} (hst : s.sameRing t) (htu : t.sameRing u) : s.sameRing u := by
  obtain ⟨hcell, hmem, hhead, htail, hphase, hcredit⟩ := hst
  obtain ⟨hcell', hmem', hhead', htail', hphase', hcredit'⟩ := htu
  exact ⟨fun a => (hcell' a).trans (hcell a), hmem'.trans hmem, hhead'.trans hhead, htail'.trans htail,
    hphase'.trans hphase, hcredit'.trans hcredit⟩

/-! ## One sample -/

/-- R136. -/
theorem takeLevel_of_eq {b : Bit} {s : State} (hb : b = s.lvl) : takeLevel b s = continueRun s := by
  simp [takeLevel, hb]

/-- R132. -/
theorem takeLevel_of_other {b : Bit} {s : State} (hb : b ≠ s.lvl) (hp : s.cfg.pulseLevel s.lvl = false) :
    takeLevel b s = startRun b s := by
  simp [takeLevel, hb, completeRun, hp]

/-- What a sample does to the demodulator depends on the demodulator and the parameters only (R23). -/
theorem sameDemod_takeLevel_congr {s t : State} (h : s.sameDemod t) (hcfg : t.cfg = s.cfg) (b : Bit) :
    (takeLevel b s).sameDemod (takeLevel b t) := by
  obtain ⟨hlvl, hrun, hnbits, hmsg⟩ := h
  rcases takeLevel_cases b s with ⟨hb, e⟩ | ⟨hb, hp, e⟩ | ⟨hb, hp, hc, e⟩ | ⟨v, hb, hp, hc, hn, e⟩ |
    ⟨v, hb, hp, hc, hn, e⟩ <;> rw [← hlvl] at hb <;> rw [e]
  · rw [takeLevel_of_eq hb]
    simp [State.sameDemod, *]
  all_goals rw [← hlvl, ← hcfg] at hp
  · rw [takeLevel_of_other hb hp]
    simp [State.sameDemod, *]
  all_goals rw [← hrun, ← hcfg] at hc
  · rw [takeLevel_of_desync hb hp hc]
    simp [State.sameDemod, hcfg]
  all_goals rw [← hnbits, ← hcfg] at hn
  · rw [takeLevel_of_bit hb hp hc hn]
    simp [State.sameDemod, *]
  · rw [takeLevel_of_bit_full hb hp hc hn]
    simp [State.sameDemod, *]

/-- R140: on a demodulator just reset any sample starts a run and makes no bit. The run of length 0 that it
ends is too short to encode one. -/
theorem takeLevel_first {s : State} (hadm : s.cfg.admitted = true) (hrun : s.run = 0)
    (hnbits : s.nbits = 0) (hmsg : s.msg = zeroFrame s.cfg) (b : Bit) :
    (takeLevel b s).run = 1 ∧ (takeLevel b s).nbits = 0 ∧ (takeLevel b s).msg = zeroFrame s.cfg := by
  have hnone : ∀ v, classify s.cfg s.run ≠ .bit v := fun v hc => by
    have hshort : s.cfg.minSamples ≤ s.run := ((classify_eq_bit_iff s.cfg s.run v).1 hc).1
    have := one_le_minSamples hadm
    omega
  rcases takeLevel_cases b s with ⟨-, e⟩ | ⟨-, -, e⟩ | ⟨-, -, -, e⟩ | ⟨v, -, -, hc, -⟩ | ⟨v, -, -, hc, -⟩
  · simp [e, hrun, hnbits, hmsg]
  · simp [e, hnbits, hmsg]
  · simp [e]
  · exact absurd hc (hnone v)
  · exact absurd hc (hnone v)

/-! ## Any number of samples -/

/-- The machine after `DM.PROC` of these samples, in order. -/
def feed (bs : List Bit) (s : State) : State := bs.foldl (fun t b => respond id (takeLevel b t)) s

@[simp] theorem feed_nil (s : State) : feed [] s = s := rfl

theorem feed_cons (b : Bit) (bs : List Bit) (s : State) :
    feed (b :: bs) s = feed bs (respond id (takeLevel b s)) := rfl

theorem feed_append (as bs : List Bit) (s : State) : feed (as ++ bs) s = feed bs (feed as s) :=
  List.foldl_append

/-- `DM.PROC` always completes (R130), and so does any sequence of it. -/
theorem execAll_dmProc (bs : List Bit) (s : State) :
    execAll (bs.map fun b => .dmProc b) s = .next (feed bs s) := by
  induction bs generalizing s with
  | nil => rfl
  | cons b bs ih => exact ih (respond id (takeLevel b s))

theorem feedRun_eq (v : Bit) (n : Nat) (s : State) :
    feedRun v n s = .next (feed (List.replicate n v) s) := by
  rw [feedRun, ← execAll_dmProc, List.map_replicate]

theorem sameRing_feed (bs : List Bit) (s : State) : s.sameRing (feed bs s) := by
  induction bs generalizing s with
  | nil => exact sameRing_refl s
  | cons b bs ih => exact sameRing_trans (sameRing_dmProc b s) (ih _)

@[simp] theorem feed_cfg (bs : List Bit) (s : State) : (feed bs s).cfg = s.cfg := by
  induction bs generalizing s with
  | nil => rfl
  | cons b bs ih => simp [feed_cons, ih]

/-- R136: samples of the level of the run in progress only lengthen it, up to the ceiling. -/
theorem feed_replicate_lvl (n : Nat) {s : State} (hrun : s.run ≤ s.cfg.maxSamples + 1) :
    (feed (List.replicate n s.lvl) s).run = min (s.run + n) (s.cfg.maxSamples + 1) ∧
      (feed (List.replicate n s.lvl) s).lvl = s.lvl ∧
      (feed (List.replicate n s.lvl) s).nbits = s.nbits ∧
      (feed (List.replicate n s.lvl) s).msg = s.msg := by
  induction n generalizing s with
  | zero => simpa using hrun
  | succ n ih =>
    have hstep := takeLevel_of_eq (b := s.lvl) (s := s) rfl
    have hone : (respond id (takeLevel s.lvl s)).run = min (s.run + 1) (s.cfg.maxSamples + 1) := by
      simp [hstep]
    have hnext : (respond id (takeLevel s.lvl s)).run ≤
        (respond id (takeLevel s.lvl s)).cfg.maxSamples + 1 := by simp [hstep]
    obtain ⟨hrun', hlvl', hnbits', hmsg'⟩ := ih hnext
    rw [respond_lvl, takeLevel_lvl] at hrun' hlvl' hnbits' hmsg'
    rw [List.replicate_succ, feed_cons, hrun', hlvl', hnbits', hmsg']
    refine ⟨?_, rfl, by simp [hstep], by simp [hstep]⟩
    rw [hone, respond_cfg, takeLevel_cfg]
    omega

/-- R142: the ceiling lies above every length that encodes a bit, so the saturated length is classified as
the true one. -/
theorem classify_min_ceiling (c : Config) (n : Nat) :
    classify c (min n (c.maxSamples + 1)) = classify c n := by
  rcases Nat.le_total n (c.maxSamples + 1) with h | h
  · rw [min_eq_left h]
  · rw [min_eq_right h, (classify_eq_desync_iff c (c.maxSamples + 1)).2 (.inr (by omega)),
      (classify_eq_desync_iff c n).2 (.inr (by omega))]

/-! ## Runs and the bits received so far (R144) -/

/-- The run in progress is `r`, its length counted up to the ceiling (R136). -/
structure InRun (s : State) (r : Run) : Prop where
  lvl : s.lvl = r.1
  run : s.run = min r.2 (s.cfg.maxSamples + 1)

/-- The demodulator holds exactly these bits, the first received at position 0 (R52, R133). -/
structure Received (s : State) (bits : List Bit) : Prop where
  msg_length : s.msg.length = s.cfg.msgBytes
  count : s.nbits = bits.length
  bit : ∀ k, k < bits.length → some (frameBit s.msg k) = bits[k]?

theorem received_congr {s t : State} {bits : List Bit} (h : Received s bits) (hmsg : t.msg = s.msg)
    (hnbits : t.nbits = s.nbits) (hcfg : t.cfg = s.cfg) : Received t bits := by
  obtain ⟨hlength, hcount, hbit⟩ := h
  constructor <;> simpa [hmsg, hnbits, hcfg]

theorem received_pushBit {s : State} {bits : List Bit} (h : Received s bits) (v : Bit)
    (hn : s.nbits < s.cfg.msgBits) : Received (pushBit v s) (bits ++ [v]) := by
  have hin : s.nbits < 8 * s.msg.length := by rwa [h.msg_length]
  refine ⟨by simp [h.msg_length], by simp [h.count], fun k hk => ?_⟩
  rw [pushBit_msg, frameBit_setFrameBit hin, h.count]
  rw [List.length_append, List.length_singleton] at hk
  rcases Nat.lt_succ_iff_lt_or_eq.1 hk with hlt | rfl
  · rw [if_neg hlt.ne, h.bit k hlt, List.getElem?_append_left hlt]
  · simp

theorem bitsOf_cons (c : Config) (r : Run) (rs : List Run) :
    bitsOf c (r :: rs) = bitsOf c [r] ++ bitsOf c rs :=
  List.filterMap_append (l := [r]) (l' := rs)

theorem bitsOf_of_other {c : Config} {r : Run} (hp : c.pulseLevel r.1 = false) : bitsOf c [r] = [] := by
  simp [bitsOf, hp]

theorem bitsOf_of_bit {c : Config} {r : Run} {v : Bit} (hp : c.pulseLevel r.1 = true)
    (hc : classify c r.2 = .bit v) : bitsOf c [r] = [v] := by
  simp [bitsOf, hp, hc]

/-- The transition that ends a run adds the bit of that run, if it has one, and starts the next run
(R130, R133). -/
theorem received_takeLevel {s : State} {r : Run} {bits : List Bit} (hr : InRun s r)
    (h : Received s bits) (hin : s.cfg.pulseLevel r.1 = true → classify s.cfg r.2 ≠ .desync)
    (hcap : (bits ++ bitsOf s.cfg [r]).length ≤ s.cfg.msgBits) :
    Received (takeLevel (!r.1) s) (bits ++ bitsOf s.cfg [r]) ∧ (takeLevel (!r.1) s).run = 1 := by
  have hb : (!r.1) ≠ s.lvl := by simp [hr.lvl]
  refine ⟨?_, takeLevel_run_of_ne hb⟩
  cases hp : s.cfg.pulseLevel r.1 with
  | false =>
    rw [takeLevel_of_other hb (by rwa [hr.lvl]), bitsOf_of_other hp, List.append_nil]
    exact received_congr h rfl rfl rfl
  | true =>
    cases hc : classify s.cfg r.2 with
    | desync => exact absurd hc (hin hp)
    | bit v =>
      rw [bitsOf_of_bit hp hc] at hcap ⊢
      have hn : s.nbits < s.cfg.msgBits := by
        rw [h.count]
        simpa using hcap
      have hc' : classify s.cfg s.run = .bit v := by rw [hr.run, classify_min_ceiling, hc]
      rw [takeLevel_of_bit hb (by rwa [hr.lvl]) hc' hn]
      exact received_congr (received_pushBit h v hn) rfl rfl rfl

/-- A first sample that left a run of length 1, and the rest of the samples of that run. -/
theorem inRun_feed {s : State} {r : Run} {bits : List Bit} (hlen : 1 ≤ r.2)
    (hrun : (takeLevel r.1 s).run = 1) (h : Received (takeLevel r.1 s) bits) :
    InRun (feed (List.replicate r.2 r.1) s) r ∧ Received (feed (List.replicate r.2 r.1) s) bits := by
  obtain ⟨v, n⟩ := r
  obtain ⟨m, rfl⟩ := Nat.exists_eq_add_of_le' hlen
  have hle : (respond id (takeLevel v s)).run ≤ (respond id (takeLevel v s)).cfg.maxSamples + 1 := by
    rw [respond_run, hrun]
    exact Nat.le_add_left 1 _
  obtain ⟨hrun', hlvl', hnbits', hmsg'⟩ := feed_replicate_lvl m hle
  rw [respond_lvl, takeLevel_lvl] at hrun' hlvl' hnbits' hmsg'
  rw [List.replicate_succ, feed_cons]
  refine ⟨⟨hlvl', ?_⟩, received_congr h hmsg' hnbits' (by simp)⟩
  rw [hrun', respond_run, hrun, Nat.add_comm 1]
  simp

/-- R144 (i) from within a run: by induction on the runs to come. -/
theorem received_feed {rs : List Run} {s : State} {r last : Run} {bits : List Bit} (hr : InRun s r)
    (h : Received s bits) (hruns : maximalRuns (r :: rs)) (hlast : (r :: rs).getLast? = some last)
    (hin : noDesync s.cfg (r :: rs)) (hcap : (bits ++ bitsOf s.cfg (r :: rs)).length ≤ s.cfg.msgBits) :
    Received (feed (samplesOf rs ++ [!last.1]) s) (bits ++ bitsOf s.cfg (r :: rs)) := by
  induction rs generalizing s r bits with
  | nil =>
    obtain rfl : r = last := by simpa using hlast
    obtain ⟨hreceived, -⟩ := received_takeLevel hr h (hin r (by simp)) hcap
    exact received_congr hreceived rfl rfl rfl
  | cons x rs ih =>
    obtain ⟨hlen, hchain⟩ := hruns
    obtain ⟨hx, hchain'⟩ := List.isChain_cons_cons.1 hchain
    rw [bitsOf_cons, ← List.append_assoc] at hcap ⊢
    rw [List.length_append] at hcap
    obtain ⟨hreceived, hrun⟩ := received_takeLevel hr h (hin r (by simp)) (by omega)
    rw [← hx] at hreceived hrun
    obtain ⟨hx', hreceived'⟩ := inRun_feed (hlen x (by simp)) hrun hreceived
    have hsamples : samplesOf (x :: rs) = List.replicate x.2 x.1 ++ samplesOf rs := rfl
    have hrest := ih hx' hreceived' ⟨fun y hy => hlen y (by simp [hy]), hchain'⟩ (by simpa using hlast)
      (by rw [feed_cfg]; exact fun y hy => hin y (by simp [hy]))
      (by rwa [feed_cfg, List.length_append])
    rw [feed_cfg] at hrest
    rwa [hsamples, List.append_assoc, feed_append]

/-- R144 (i) from a demodulator just reset. -/
theorem received_feed_of_cleared {rs : List Run} {s : State} {last : Run} (hadm : s.cfg.admitted = true)
    (hrun : s.run = 0) (hnbits : s.nbits = 0) (hmsg : s.msg = zeroFrame s.cfg) (hruns : maximalRuns rs)
    (hlast : rs.getLast? = some last) (hin : noDesync s.cfg rs)
    (hcap : (bitsOf s.cfg rs).length ≤ s.cfg.msgBits) :
    Received (feed (samplesOf rs ++ [!last.1]) s) (bitsOf s.cfg rs) := by
  cases rs with
  | nil => cases hlast
  | cons r rs =>
    obtain ⟨hrun', hnbits', hmsg'⟩ := takeLevel_first hadm hrun hnbits hmsg r.1
    have hempty : Received (takeLevel r.1 s) [] :=
      ⟨by simp [hmsg', zeroFrame], hnbits', fun k hk => by simp at hk⟩
    obtain ⟨hr, hreceived⟩ := inRun_feed (hruns.1 r (by simp)) hrun' hempty
    have hsamples : samplesOf (r :: rs) = List.replicate r.2 r.1 ++ samplesOf rs := rfl
    rw [hsamples, List.append_assoc, feed_append]
    have hrest := received_feed hr hreceived hruns hlast (by rwa [feed_cfg]) (by simpa using hcap)
    simpa using hrest

/-! ## The operations -/

/-- Settles O26. -/
theorem dmProcTracksRun : Obligations.DmProcTracksRun := by
  refine ⟨fun c bus => ?_, fun b s => ⟨_, exec_dmProc b s, takeLevel_lvl b s, ?_, fun hb => ?_,
    answers_respond_id _, sameRing_dmProc b s, sameEnvironment_dmProc b s⟩⟩
  · obtain ⟨-, -, -, h40, h41, -⟩ := decodeCommand_rows c bus
    exact ⟨h40, h41⟩
  · split
    · next hb => simp [takeLevel_of_eq hb]
    · next hb => simp [takeLevel_run_of_ne hb]
  · simp [takeLevel_of_eq hb]

/-- Settles O30. -/
theorem dmProcIgnoresOtherLevels : Obligations.DmProcIgnoresOtherLevels := by
  intro b s hb hp
  have htake := takeLevel_of_other hb hp
  exact ⟨_, exec_dmProc b s, by simp [htake], by simp [htake], by simp, takeLevel_run_of_ne hb,
    sameRing_dmProc b s, sameEnvironment_dmProc b s⟩

/-- Settles O31: the invariant bounds the run, which no sample at all needs. -/
theorem saturatedRunClassifiesAsTrueLength : Obligations.SaturatedRunClassifiesAsTrueLength := by
  intro s n hs
  obtain ⟨hrun, hlvl, hnbits, hmsg⟩ := feed_replicate_lvl n hs.run_le
  exact ⟨_, feedRun_eq s.lvl n s, hrun, hlvl, hnbits, hmsg, sameRing_feed _ s,
    by rw [hrun, classify_min_ceiling]⟩

/-- Settles O32. -/
theorem dmRxlenReturnsBitCount : Obligations.DmRxlenReturnsBitCount := by
  refine ⟨fun c bus => ?_, fun s => ⟨_, exec_dmRxlen s, answers_driveCount _ s, fun hs => hs.nbits_le,
    by simp [frameReady], respond_keeps_state _ s⟩⟩
  obtain ⟨-, -, -, -, -, h50, -⟩ := decodeCommand_rows c bus
  exact h50

/-- Settles O33. -/
theorem dmGetmsgReturnsBuffer : Obligations.DmGetmsgReturnsBuffer := by
  refine ⟨fun c bus => ?_, fun s => ⟨_, exec_dmGetmsg s,
    answers_respond rfl ⟨rfl, fun hs => ⟨hs.msg_length, hs.msg_rest⟩⟩, respond_keeps_state _ s⟩⟩
  obtain ⟨-, -, -, -, -, -, h60, -⟩ := decodeCommand_rows c bus
  exact h60

theorem execAll_reset_sample (b : Bit) (s : State) : execAll [.dmReset, .dmProc b] s =
    .next (respond id (takeLevel b (respond id (clearDemod s)))) := rfl

/-- Settles O35. -/
theorem firstSampleAfterReset : Obligations.FirstSampleAfterReset := by
  intro b s hadm
  obtain ⟨hrun, hnbits, hmsg⟩ := takeLevel_first (s := respond id (clearDemod s)) hadm rfl rfl rfl b
  exact ⟨_, execAll_reset_sample b s, takeLevel_lvl b _, hrun, hnbits, hmsg⟩

/-- Settles O36: both leave the new run of length 1 and an empty buffer. -/
theorem desyncEqualsResetThenSample : Obligations.DesyncEqualsResetThenSample := by
  intro b s hadm hb hp hout
  have htake := takeLevel_of_desync hb hp ((classify_eq_desync_iff s.cfg s.run).2 hout)
  obtain ⟨hrun, hnbits, hmsg⟩ := takeLevel_first (s := respond id (clearDemod s)) hadm rfl rfl rfl b
  refine ⟨_, _, exec_dmProc b s, execAll_reset_sample b s, ?_⟩
  rw [htake]
  exact ⟨(takeLevel_lvl b _).symm, hrun.symm, hnbits.symm, hmsg.symm⟩

/-- Settles O37: `DM.RESET`, then the induction over the runs. -/
theorem canonicalPatternDecodes : Obligations.CanonicalPatternDecodes := by
  intro s rs last hs hruns hlast hin hcap
  have h := received_feed_of_cleared (s := respond id (clearDemod s)) hs.config rfl rfl rfl hruns hlast
    hin hcap
  exact ⟨_, execAll_dmProc (samplesOf rs ++ [!last.1]) (respond id (clearDemod s)), h.count, h.bit,
    sameRing_trans (sameRing_clearDemod s) (sameRing_feed _ _)⟩

/-- Settles O38. -/
theorem frameBitReadAfterWrite : Obligations.FrameBitReadAfterWrite := fun _ _ j v hk =>
  frameBit_setFrameBit hk v j

end Sys2Proof.PatternProofs

/-! Proofs about the checksum (R163, R165) and the raw fields (R53) of the frame decoder
(`42_frame_decoder.md`). First flipping a bit of a byte list, then folds that are injective step by step,
of which both test checksums are examples, then the statements. -/

namespace Sys2Proof.ChecksumProofs
open Sys2Proof Sys2Proof.Machine Sys2Proof.DemodulatorProofs Sys2Proof.FrameDecoderProofs
open Sys2Proof.EncodingProofs

/-! ## Raw fields -/

/-- Settles O43: by induction on the width; the first bit received stands above all the others. -/
theorem rawFieldIsBigEndian : Obligations.RawFieldIsBigEndian := by
  intro F off w j
  induction w generalizing off with
  | zero => simp [rawField]
  | succ w ih =>
    rw [rawField_succ, Nat.mul_comm, Nat.testBit_two_pow_mul_add _ (rawField_lt F (off + 1) w)]
    rcases Nat.lt_trichotomy j w with hlow | rfl | hhigh
    · have hplace : off + 1 + (w - 1 - j) = off + (w + 1 - 1 - j) := by omega
      simp [hlow, Nat.lt_succ_of_lt hlow, ih, hplace]
    · cases h : frameBit F off <;> simp [h]
    · have hpos : j - w ≠ 0 := by omega
      have hout : ¬ j < w + 1 := by omega
      simp [Nat.testBit_bool_toNat, hhigh.not_gt, hout, hpos]

/-! ## Flipping a bit -/

/-- Flipping a bit of a byte list changes one byte of it. -/
theorem flipBit_eq_set {d : List Byte} {k : Nat} (hk : k / 8 < d.length) :
    ∃ B, B ≠ d[k / 8] ∧ flipBit d k = d.set (k / 8) B := by
  refine ⟨_, fun heq => ?_, rfl⟩
  have hbit := congrArg (fun x => x.getLsbD (bitPlace k)) heq
  simp [getLsbD_setByteBit _ (bitPlace_lt k), frameBit, hk] at hbit

/-- A flip within the first `n` bytes is a flip of these bytes (R160). -/
theorem take_flipBit {d : List Byte} {k n : Nat} (hk : k / 8 < n) :
    (flipBit d k).take n = flipBit (d.take n) k := by
  simp [flipBit, setFrameBit, frameBit, List.take_set, List.getElem?_take_of_lt hk]

theorem drop_flipBit {d : List Byte} {k n : Nat} (hk : k / 8 < n) : (flipBit d k).drop n = d.drop n :=
  List.drop_set_of_lt hk

/-! ## Corrupted frames (R165) -/

theorem wellFormed_iff (c : Config) (F : Frame) :
    Frame.wellFormed c F = true ↔ F.length = c.msgBytes := by
  simp [Frame.wellFormed]

theorem frameValid_append_checksum {c : Config} {d : List Byte} (hadm : c.admitted = true)
    (hd : d.length = c.dataLen) : frameValid c (d ++ checksum c d) = true := by
  have hlt := chkLen_lt_msgBytes hadm
  have hwf : Frame.wellFormed c (d ++ checksum c d) = true := by
    rw [wellFormed_iff, List.length_append, checksum_length, hd, Config.dataLen]
    omega
  rw [frameValid_iff_of_wellFormed hwf, List.take_left' hd, List.drop_left' hd]

theorem frameValid_flipBit {c : Config} {F : Frame} {k : Nat} (hchk : ChkBitflip c)
    (hwf : Frame.wellFormed c F = true) (hvalid : frameValid c F = true) (hk : k < 8 * c.dataLen) :
    frameValid c (flipBit F k) = false := by
  have hbyte : k / 8 < c.dataLen := by omega
  have hwf' : Frame.wellFormed c (flipBit F k) = true := by
    rw [wellFormed_iff] at hwf ⊢
    rw [flipBit, setFrameBit_length, hwf]
  have hdata : (F.take c.dataLen).length = c.dataLen := by
    rw [List.length_take, (wellFormed_iff c F).1 hwf]
    exact min_eq_left (Nat.sub_le _ _)
  rw [Bool.eq_false_iff, Ne, frameValid_iff_of_wellFormed hwf', take_flipBit hbyte, drop_flipBit hbyte,
    ← (frameValid_iff_of_wellFormed hwf).1 hvalid]
  exact hchk _ k hdata hk

/-- Two valid frames with the same data are the same. -/
theorem eq_of_frameValid {c : Config} {F G : Frame} (hF : Frame.wellFormed c F = true)
    (hG : Frame.wellFormed c G = true) (hvalid : frameValid c F = true) (hvalid' : frameValid c G = true)
    (hdata : F.take c.dataLen = G.take c.dataLen) : F = G := by
  have hchk := (frameValid_iff_of_wellFormed hF).1 hvalid
  have hchk' := (frameValid_iff_of_wellFormed hG).1 hvalid'
  rw [← List.take_append_drop c.dataLen F, ← List.take_append_drop c.dataLen G, ← hchk, ← hchk', hdata]

/-- Settles O40. -/
theorem corruptedFramesAreInvalid : Obligations.CorruptedFramesAreInvalid := fun _ hadm =>
  ⟨fun _ hd => frameValid_append_checksum hadm hd,
    fun _ _ hchk hwf hvalid hk => frameValid_flipBit hchk hwf hvalid hk,
    fun _ _ hF hG hvalid hdata hne => Bool.eq_false_iff.2 fun hvalid' =>
      hne (eq_of_frameValid hF hG hvalid hvalid' hdata)⟩

/-! ## Folds that are injective step by step -/

/-- A fold passes on a difference in its start value. -/
theorem foldl_injective {f : Byte → Byte → Byte} (hf : ∀ B, Function.Injective fun r => f r B)
    (d : List Byte) : Function.Injective fun r => d.foldl f r := by
  induction d with
  | nil => exact Function.injective_id
  | cons B d ih => exact ih.comp (hf B)

/-- A fold that is injective in each of its arguments detects a change of one byte. -/
theorem foldl_set_ne {f : Byte → Byte → Byte} (hf : ∀ B, Function.Injective fun r => f r B)
    (hf' : ∀ r, Function.Injective (f r)) {d : List Byte} {j : Nat} (hj : j < d.length) {B : Byte}
    (hB : B ≠ d[j]) (r : Byte) : (d.set j B).foldl f r ≠ d.foldl f r := by
  induction d generalizing j r with
  | nil => simp at hj
  | cons A d ih =>
    cases j with
    | zero => exact (foldl_injective hf d).ne ((hf' r).ne hB)
    | succ j => exact ih (Nat.lt_of_succ_lt_succ hj) hB (f r A)

/-- What undoes one bit of `CRC8_31`: bit 0 of the result is the bit shifted out, since bit 0 of the
polynomial is 1. -/
def crcUnshift (r : Byte) : Byte :=
  if r.getLsbD 0 then ((r ^^^ 0x31#8) >>> 1) ||| 0x80#8 else r >>> 1

theorem crcUnshift_crcShift (r : Byte) : crcUnshift (crcShift r) = r := by
  revert r
  decide

theorem crcShift_injective : Function.Injective crcShift :=
  Function.LeftInverse.injective crcUnshift_crcShift

/-! A byte of `CRC8_31` is eight shifts of the sum of state and data, so it is injective in both. -/

theorem crcByte_injective_left (B : Byte) : Function.Injective fun r => crcByte r B := fun _ _ h =>
  BitVec.xor_left_inj B |>.1 (crcShift_injective.iterate 8 h)

theorem crcByte_injective_right (r : Byte) : Function.Injective (crcByte r) := fun _ _ h =>
  BitVec.xor_right_inj r |>.1 (crcShift_injective.iterate 8 h)

/-- A checksum whose first byte is a fold of that kind has the property CHK_BITFLIP (R163). -/
theorem chkBitflip_of_fold {c : Config} {f : Byte → Byte → Byte} (hlen : 0 < c.chkLen)
    (hchk : ∀ d, checksumByte c.chk d 0 = d.foldl f 0x00#8)
    (hf : ∀ B, Function.Injective fun r => f r B) (hf' : ∀ r, Function.Injective (f r)) :
    ChkBitflip c := by
  intro d k hd hk heq
  have hbyte : k / 8 < d.length := by omega
  obtain ⟨B, hB, hflip⟩ := flipBit_eq_set hbyte
  have hfirst : checksumByte c.chk (flipBit d k) 0 = checksumByte c.chk d 0 := by
    have h0 := congrArg (fun l => l[0]?) heq
    simpa [checksum, hlen] using h0
  rw [hchk, hchk, hflip] at hfirst
  exact foldl_set_ne hf hf' hbyte hB _ hfirst

theorem one_le_chkLen {c : Config} (h : c.admitted = true) : 1 ≤ c.chkLen := by
  simp only [Config.admitted, Bool.and_eq_true, decide_eq_true_eq, and_assoc] at h
  obtain ⟨-, -, -, -, -, -, hlen, -⟩ := h
  exact hlen

/-- Settles O41: the steps of both sums are injective in the state and in the byte. -/
theorem testChecksumsHaveBitflip : Obligations.TestChecksumsHaveBitflip := by
  rintro c hadm (hsum | hcrc)
  · refine chkBitflip_of_fold (f := fun acc B => acc + B) (one_le_chkLen hadm) (fun d => ?_)
      add_left_injective add_right_injective
    rw [hsum]
    rfl
  · refine chkBitflip_of_fold (f := crcByte) (one_le_chkLen hadm) (fun d => ?_)
      crcByte_injective_left crcByte_injective_right
    rw [hcrc]
    rfl

end Sys2Proof.ChecksumProofs

/-! Proofs about ownership and interleaving (`10_state.md` R23, `20_memory.md` R62). First what each unit
leaves alone, then the statements. -/

namespace Sys2Proof.OwnershipProofs
open Sys2Proof Sys2Proof.Machine Sys2Proof.RingBufferProofs Sys2Proof.DemodulatorProofs
open Sys2Proof.FrameDecoderProofs Sys2Proof.InvariantProofs Sys2Proof.FifoProofs Sys2Proof.PatternProofs

/-! ## What each unit leaves alone -/

/-- The operations of the ring buffer (R84). -/
def isRingOp : Instr → Bool
  | .rbWrite _ => true
  | .rbAvail => true
  | .rbRead => true
  | .rbReset => true
  | _ => false

/-- No operation of DM or FD touches the ring buffer (R23). -/
theorem sameRing_exec {i : Instr} {s t : State} (hi : isRingOp i = false) (h : exec i s = .next t) :
    s.sameRing t := by
  cases i with
  | rbWrite b => cases hi
  | rbAvail => cases hi
  | rbRead => cases hi
  | rbReset => cases hi
  | dmProc b => cases h; exact sameRing_dmProc b s
  | dmReset => cases h; exact sameRing_respond (sameRing_clearDemod s) id
  | _ => cases h; exact (respond_keeps_state _ s).1

/-- Only two operations touch the demodulator (R23). -/
theorem sameDemod_exec {i : Instr} {s t : State} (hproc : ∀ b, i ≠ .dmProc b) (hreset : i ≠ .dmReset)
    (h : exec i s = .next t) : s.sameDemod t := by
  cases i with
  | rbRead => obtain ⟨-, rfl⟩ := exec_rbRead_next h; exact ⟨rfl, rfl, rfl, rfl⟩
  | rbReset => rcases exec_rbReset_next h with ⟨-, rfl⟩ | ⟨-, rfl⟩ <;> exact ⟨rfl, rfl, rfl, rfl⟩
  | dmProc b => exact absurd rfl (hproc b)
  | dmReset => exact absurd rfl hreset
  | _ => cases h; exact ⟨rfl, rfl, rfl, rfl⟩

/-- No operation changes a parameter or an input to come, and none is `rst` (R28, R36). -/
theorem sameEnvironment_exec {i : Instr} {s t : State} (h : exec i s = .next t) :
    s.sameEnvironment t := by
  cases i with
  | rbRead => obtain ⟨-, rfl⟩ := exec_rbRead_next h; exact ⟨rfl, rfl, rfl, rfl⟩
  | rbReset => rcases exec_rbReset_next h with ⟨-, rfl⟩ | ⟨-, rfl⟩ <;> exact ⟨rfl, rfl, rfl, rfl⟩
  | dmProc b => cases h; exact sameEnvironment_dmProc b s
  | _ => cases h; exact ⟨rfl, rfl, rfl, rfl⟩

/-! ## Who writes what -/

/-- The columns of the access table for the ring buffer (R23). -/
theorem exec_writes_ring {i : Instr} {s t : State} (h : exec i s = .next t) :
    (t.mem ≠ s.mem → ∃ b, i = .rbWrite b) ∧
    (t.head ≠ s.head → (∃ b, i = .rbWrite b) ∨ (i = .rbReset ∧ t.head = 0)) ∧
    (t.tail ≠ s.tail → i = .rbRead ∨ (i = .rbReset ∧ t.tail = 0)) ∧
    (t.rphase ≠ s.rphase → i = .rbReset) := by
  cases hi : isRingOp i with
  | false =>
    obtain ⟨-, hmem, hhead, htail, hphase, -⟩ := sameRing_exec hi h
    exact ⟨fun hne => absurd hmem hne, fun hne => absurd hhead hne, fun hne => absurd htail hne,
      fun hne => absurd hphase hne⟩
  | true =>
    cases i with
    | rbWrite b =>
      cases h
      exact ⟨fun _ => ⟨b, rfl⟩, fun _ => .inl ⟨b, rfl⟩, fun hne => absurd rfl hne,
        fun hne => absurd rfl hne⟩
    | rbAvail =>
      cases h
      exact ⟨fun hne => absurd rfl hne, fun hne => absurd rfl hne, fun hne => absurd rfl hne,
        fun hne => absurd rfl hne⟩
    | rbRead =>
      obtain ⟨-, rfl⟩ := exec_rbRead_next h
      exact ⟨fun hne => absurd rfl hne, fun hne => absurd rfl hne, fun _ => .inl rfl,
        fun hne => absurd rfl hne⟩
    | rbReset =>
      rcases exec_rbReset_next h with ⟨-, rfl⟩ | ⟨-, rfl⟩
      · exact ⟨fun hne => absurd rfl hne, fun _ => .inr ⟨rfl, rfl⟩, fun hne => absurd rfl hne,
          fun _ => rfl⟩
      · exact ⟨fun hne => absurd rfl hne, fun hne => absurd rfl hne, fun _ => .inr ⟨rfl, rfl⟩,
          fun _ => rfl⟩
    | _ => cases hi

/-- Settles O46: what is not an owner's operation leaves the unit alone. -/
theorem onlyOwnersWrite : Obligations.OnlyOwnersWrite := by
  intro i s t h
  obtain ⟨hmem, hhead, htail, hphase⟩ := exec_writes_ring h
  refine ⟨hmem, hhead, htail, hphase, fun hne => ?_, sameEnvironment_exec h⟩
  by_contra hother
  obtain ⟨hproc, hreset⟩ := not_or.1 hother
  exact hne (sameDemod_exec (fun b hb => hproc ⟨b, hb⟩) hreset h)

/-! ## Two runs -/

theorem sameDemod_symm {s t : State} (h : s.sameDemod t) : t.sameDemod s := by
  obtain ⟨hlvl, hrun, hnbits, hmsg⟩ := h
  exact ⟨hlvl.symm, hrun.symm, hnbits.symm, hmsg.symm⟩

theorem sameRing_symm {s t : State} (h : s.sameRing t) : t.sameRing s := by
  obtain ⟨hcell, hmem, hhead, htail, hphase, hcredit⟩ := h
  exact ⟨fun a => (hcell a).symm, hmem.symm, hhead.symm, htail.symm, hphase.symm, hcredit.symm⟩

/-- Between the same two resets, equal memories read alike (U7). -/
theorem sameRing_of_fields {s t : State} (hboots : t.boots = s.boots) (hmem : t.mem = s.mem)
    (hhead : t.head = s.head) (htail : t.tail = s.tail) (hphase : t.rphase = s.rphase)
    (hcredit : t.readCredit = s.readCredit) : s.sameRing t :=
  ⟨sampleAt_congr hmem hboots, hmem, hhead, htail, hphase, hcredit⟩

/-- R203: what an operation does to the demodulator depends on the demodulator and the parameters. -/
theorem sameDemod_exec_congr {i : Instr} {s s' t t' : State} (hcfg : s'.cfg = s.cfg)
    (h : exec i s = .next t) (h' : exec i s' = .next t') (hsame : s.sameDemod s') : t.sameDemod t' := by
  by_cases hdemod : (∃ b, i = .dmProc b) ∨ i = .dmReset
  · rcases hdemod with ⟨b, rfl⟩ | rfl <;> cases h <;> cases h'
    · exact sameDemod_takeLevel_congr hsame hcfg b
    · exact ⟨rfl, rfl, rfl, congrArg zeroFrame hcfg⟩
  · obtain ⟨hproc, hreset⟩ := not_or.1 hdemod
    have hkept : ∀ {u v}, exec i u = .next v → u.sameDemod v :=
      sameDemod_exec (fun b hb => hproc ⟨b, hb⟩) hreset
    exact sameDemod_trans (sameDemod_symm (hkept h)) (sameDemod_trans hsame (hkept h'))

/-- R203: what an operation does to the ring buffer depends on the ring buffer and the parameters. -/
theorem sameRing_exec_congr {i : Instr} {s s' t t' : State} (hcfg : s'.cfg = s.cfg)
    (hboots : s'.boots = s.boots) (h : exec i s = .next t) (h' : exec i s' = .next t')
    (hsame : s.sameRing s') : t.sameRing t' := by
  cases hi : isRingOp i with
  | false =>
    exact sameRing_trans (sameRing_symm (sameRing_exec hi h)) (sameRing_trans hsame (sameRing_exec hi h'))
  | true =>
    obtain ⟨-, hmem, hhead, htail, hphase, hcredit⟩ := hsame
    cases i with
    | rbWrite b => cases h; cases h'; apply sameRing_of_fields <;> simp [*]
    | rbAvail => cases h; cases h'; apply sameRing_of_fields <;> simp [bufferedLength, *]
    | rbRead =>
      obtain ⟨-, rfl⟩ := exec_rbRead_next h
      obtain ⟨-, rfl⟩ := exec_rbRead_next h'
      apply sameRing_of_fields <;> simp [*]
    | rbReset =>
      cases hp : s.rphase with
      | idle =>
        rw [exec_rbReset_idle hp] at h
        rw [exec_rbReset_idle (hphase.trans hp)] at h'
        cases h; cases h'
        apply sameRing_of_fields <;> simp [*]
      | headCleared =>
        rw [exec_rbReset_headCleared hp] at h
        rw [exec_rbReset_headCleared (hphase.trans hp)] at h'
        cases h; cases h'
        apply sameRing_of_fields <;> simp [*]
    | _ => cases hi

/-- Settles O47. -/
theorem unitsDoNotInterfere : Obligations.UnitsDoNotInterfere := fun _ _ _ _ _ hcfg h h' =>
  ⟨sameDemod_exec_congr hcfg.symm h h', fun hboots => sameRing_exec_congr hcfg.symm hboots.symm h h'⟩

/-! ## Interleaving -/

/-- R62: the demodulator's step and the producer's write touch different state. -/
theorem takeLevel_writeSample (v b : Bit) (s : State) :
    takeLevel v (writeSample b s) = writeSample b (takeLevel v s) := by
  rcases takeLevel_cases v s with ⟨hb, e⟩ | ⟨hb, hp, e⟩ | ⟨hb, hp, hc, e⟩ | ⟨u, hb, hp, hc, hn, e⟩ |
    ⟨u, hb, hp, hc, hn, e⟩ <;> rw [e]
  · exact takeLevel_of_eq hb
  · exact takeLevel_of_other hb hp
  · exact takeLevel_of_desync hb hp hc
  · exact takeLevel_of_bit hb hp hc hn
  · exact takeLevel_of_bit_full hb hp hc hn

/-- Settles O49. -/
theorem ticksCommuteWithOtherUnits : Obligations.TicksCommuteWithOtherUnits := by
  intro b i s hwrite havail hread hreset
  cases i with
  | rbWrite v => exact absurd rfl (hwrite v)
  | rbAvail => exact absurd rfl havail
  | rbRead => exact absurd rfl hread
  | rbReset => exact absurd rfl hreset
  | dmProc v =>
    refine ⟨respond id (takeLevel v (writeSample b s)), rfl, ?_⟩
    rw [takeLevel_writeSample]
    rfl
  | _ => exact ⟨_, rfl, rfl⟩

end Sys2Proof.OwnershipProofs

/-! Proofs about the consumer's drain pass (`43_composite_ops.md` R180 to R186). First one step of a pass
and the discard, then that no command is refused (R186 (e)), then that the loop follows the demodulator
over the samples of the snapshot (R186 (a), (b)), then the statements. -/

namespace Sys2Proof.ServiceProofs
open Sys2Proof Sys2Proof.Machine Sys2Proof.RingBufferProofs Sys2Proof.DemodulatorProofs
open Sys2Proof.FrameDecoderProofs Sys2Proof.InvariantProofs Sys2Proof.StepProofs Sys2Proof.FifoProofs
open Sys2Proof.PatternProofs Sys2Proof.OwnershipProofs

/-! ## One step of a pass -/

/-- The machine as the consumer's next step of a pass finds it: the samples due before it are written, the
response of the step before it is over. -/
def atStep (p : Pass) : State := quiet (writes (p.gaps.headD []) p.machine)

section
variable (p : Pass)

@[simp] theorem atStep_rphase : (atStep p).rphase = p.machine.rphase := by simp [atStep]
@[simp] theorem atStep_cfg : (atStep p).cfg = p.machine.cfg := by simp [atStep]
@[simp] theorem atStep_readCredit : (atStep p).readCredit = p.machine.readCredit := by simp [atStep]

theorem sameDemod_atStep : p.machine.sameDemod (atStep p) :=
  sameDemod_writes (p.gaps.headD []) p.machine

end

theorem inv_atStep {p : Pass} (h : p.machine.Inv) : (atStep p).Inv := inv_quiet (inv_writes h _)

/-- A step of a pass is its operation, on the machine as the step finds it (R180). -/
theorem passStep_eq (i : Instr) (p : Pass) :
    passStep i p = andThen (exec i (atStep p)) fun t => .next ⟨t, p.gaps.drop 1⟩ := by
  rw [passStep, writeAll_eq, andThen_next, List.drop_one]
  rfl

theorem passStep_next {i : Instr} {p : Pass} {t : State} (h : exec i (atStep p) = .next t) :
    passStep i p = .next ⟨t, p.gaps.drop 1⟩ := by
  rw [passStep_eq, h, andThen_next]

theorem headD_drop (l : List (List Bit)) (n : Nat) : (l.drop n).headD [] = l.getD n [] := by
  simp [List.headD_eq_head?_getD, List.head?_drop]

/-! ## The discard (R182) -/

/-- The machine after both steps of `RB.RESET` in a pass: `during` is written between them. -/
def afterRingReset (during : List Bit) (s : State) : State :=
  respond id (resetTail (quiet (writes during (resetHead s))))

theorem passRingReset_eq {p : Pass} (hidle : p.machine.rphase = .idle) :
    passRingReset p = .next ⟨afterRingReset (p.gaps.getD 1 []) (atStep p), p.gaps.drop 2⟩ := by
  have hfirst := passStep_next (i := .rbReset) (p := p) (exec_rbReset_idle (by simp [hidle]))
  have hsecond := passStep_next (i := .rbReset) (p := ⟨resetHead (atStep p), p.gaps.drop 1⟩)
    (exec_rbReset_headCleared (by simp))
  rw [passRingReset, hfirst, andThen_next, hsecond, atStep, headD_drop, List.drop_drop]
  rfl

theorem pipeReset_eq {p : Pass} (hidle : p.machine.rphase = .idle) :
    pipeReset p = .next ⟨respond id (clearDemod (quiet (writes (p.gaps.getD 2 [])
      (afterRingReset (p.gaps.getD 1 []) (atStep p))))), p.gaps.drop 3⟩ := by
  rw [pipeReset, passRingReset_eq hidle, andThen_next, passStep_next (exec_dmReset _), atStep, headD_drop,
    List.drop_drop]

/-- Settles O50. -/
theorem pipeResetRestoresResetRegisters : Obligations.PipeResetRestoresResetRegisters := fun _ hidle =>
  ⟨_, pipeReset_eq hidle, rfl, rfl, rfl, rfl, rfl, rfl, rfl, rfl, fun _ => rfl⟩

section
variable {s : State} (during after : List Bit)

theorem inv_afterRingReset (hs : s.Inv) : (afterRingReset during s).Inv :=
  inv_respond_undriven (inv_resetTail (inv_quiet (inv_writes (inv_resetHead hs) during))) (fun _ => rfl)
    fun _ => rfl

theorem afterRingReset_cfg : (afterRingReset during s).cfg = s.cfg := by simp [afterRingReset]

theorem sameDemod_afterRingReset : s.sameDemod (afterRingReset during s) :=
  sameDemod_writes during (resetHead s)

theorem afterRingReset_head (hs : s.Inv) :
    (afterRingReset during s).head = during.length % s.cfg.sampleLen := by
  simpa [afterRingReset] using writes_head during (inv_resetHead hs).head_lt

/-- The samples written in the reset window and after it are all that the buffer holds (R119). -/
theorem holds_after_reset (hs : s.Inv) (hcap : (during ++ after).length < s.cfg.sampleLen) :
    (writes after (afterRingReset during s)).Holds (during ++ after) := by
  rw [List.length_append] at hcap
  have hwindow : (resetTail (writes during (resetHead s))).Holds during :=
    holds_resetTail_writes rfl (by rw [resetHead_cfg]; omega)
  exact holds_writes (inv_afterRingReset during hs) { hwindow with }
    (by rw [afterRingReset_cfg]; exact hcap)

theorem head_after_reset (hs : s.Inv) : (writes after (afterRingReset during s)).head =
    (during ++ after).length % s.cfg.sampleLen := by
  rw [writes_head after (inv_afterRingReset during hs).head_lt, afterRingReset_head during hs,
    afterRingReset_cfg, Nat.mod_add_mod, List.length_append]

/-- Only the cells from 0 on that these samples go to are written. -/
theorem sampleAt_after_reset (hs : s.Inv) {a : Nat}
    (ha : ∀ k, k < (during ++ after).length → a ≠ k % s.cfg.sampleLen) :
    sampleAt (writes after (afterRingReset during s)) a = sampleAt s a := by
  rw [List.length_append] at ha
  have hafter : sampleAt (writes after (afterRingReset during s)) a =
      sampleAt (afterRingReset during s) a := by
    refine sampleAt_writes_of_ne after (inv_afterRingReset during hs).head_lt fun k hk => ?_
    rw [afterRingReset_head during hs, afterRingReset_cfg, Nat.mod_add_mod]
    exact ha _ (by omega)
  have hduring : sampleAt (writes during (resetHead s)) a = sampleAt (resetHead s) a := by
    refine sampleAt_writes_of_ne during (inv_resetHead hs).head_lt fun k hk => ?_
    rw [resetHead_head, Nat.zero_add, resetHead_cfg]
    exact ha _ (by omega)
  exact hafter.trans hduring

end

/-! ## The count of a pass -/

/-- The machine after the one `RB.AVAIL` of a pass. -/
def counted (p : Pass) : State :=
  respond (driveCount (bufferedLength (atStep p))) (grantCredit (bufferedLength (atStep p)) (atStep p))

theorem passStep_rbAvail (p : Pass) : passStep .rbAvail p = .next ⟨counted p, p.gaps.drop 1⟩ :=
  passStep_next (exec_rbAvail _)

@[simp] theorem counted_cfg (p : Pass) : (counted p).cfg = p.machine.cfg := by simp [counted]

@[simp] theorem counted_rphase (p : Pass) : (counted p).rphase = p.machine.rphase := by simp [counted]

@[simp] theorem shownCount_counted (p : Pass) : shownCount (counted p) = bufferedLength (atStep p) := rfl

theorem inv_counted {p : Pass} (hs : p.machine.Inv) (hidle : p.machine.rphase = .idle) :
    (counted p).Inv :=
  inv_exec (inv_atStep hs) (by simpa using hidle) (exec_rbAvail _)

theorem service_backlog {p r : Pass} (h : p.machine.cfg.sampleLen < 2 * bufferedLength (atStep p))
    (hr : discardBacklog ⟨counted p, p.gaps.drop 1⟩ = .next r) :
    service p = .next ⟨r, [], true⟩ := by
  rw [List.drop_one] at hr
  simp [service, passStep_rbAvail, isBacklog, h, hr]

theorem service_drain {p r : Pass} {fs : List Frame}
    (h : ¬ p.machine.cfg.sampleLen < 2 * bufferedLength (atStep p))
    (hr : drain (bufferedLength (atStep p)) ⟨counted p, p.gaps.drop 1⟩ = .next (r, fs)) :
    service p = .next ⟨r, fs, false⟩ := by
  rw [List.drop_one] at hr
  simp [service, passStep_rbAvail, isBacklog, h, hr]

/-! ## A pass that discards (R186 (d)) -/

/-- The machine as the first step of `RB.RESET` finds it, after the count. -/
def atDiscard (p : Pass) : State := atStep ⟨counted p, p.gaps.drop 1⟩

theorem inv_atDiscard {p : Pass} (hs : p.machine.Inv) (hidle : p.machine.rphase = .idle) :
    (atDiscard p).Inv :=
  inv_atStep (inv_counted hs hidle)

@[simp] theorem atDiscard_cfg (p : Pass) : (atDiscard p).cfg = p.machine.cfg := by simp [atDiscard]

theorem sameDemod_atDiscard (p : Pass) : p.machine.sameDemod (atDiscard p) :=
  sameDemod_trans (sameDemod_atStep p) (sameDemod_atStep ⟨counted p, p.gaps.drop 1⟩)

/-- Up to the discard the producer writes the first two gaps. -/
theorem sampleAt_atDiscard {p : Pass} (hs : p.machine.Inv) (hidle : p.machine.rphase = .idle) {a : Nat}
    (ha : ∀ k, k < (p.gaps.getD 0 [] ++ p.gaps.getD 1 []).length →
      a ≠ (p.machine.head + k) % p.machine.cfg.sampleLen) :
    sampleAt (atDiscard p) a = sampleAt p.machine a := by
  rw [List.length_append] at ha
  have hgap : p.gaps.headD [] = p.gaps.getD 0 [] := headD_drop p.gaps 0
  have hfirst : sampleAt (writes (p.gaps.headD []) p.machine) a = sampleAt p.machine a := by
    refine sampleAt_writes_of_ne _ hs.head_lt fun k hk => ha k ?_
    rw [hgap] at hk
    omega
  have hhead : (counted p).head =
      (p.machine.head + (p.gaps.getD 0 []).length) % p.machine.cfg.sampleLen := by
    rw [← hgap]
    exact writes_head _ hs.head_lt
  have hsecond : sampleAt (writes ((p.gaps.drop 1).headD []) (counted p)) a = sampleAt (counted p) a := by
    refine sampleAt_writes_of_ne _ (inv_counted hs hidle).head_lt fun k hk => ?_
    rw [headD_drop] at hk
    rw [hhead, counted_cfg, Nat.mod_add_mod, Nat.add_assoc]
    exact ha _ (by omega)
  exact hsecond.trans hfirst

/-- The discard, with the demodulator left alone. -/
theorem discardBacklog_keep {p : Pass} (hidle : p.machine.rphase = .idle)
    (hovf : p.machine.cfg.ovfResetsDemod = false) :
    discardBacklog ⟨counted p, p.gaps.drop 1⟩ =
      .next ⟨afterRingReset (p.gaps.getD 2 []) (atDiscard p), p.gaps.drop 3⟩ := by
  have hreset := passRingReset_eq (p := ⟨counted p, p.gaps.drop 1⟩) (by simpa using hidle)
  simpa [discardBacklog, hovf, atDiscard, List.getElem?_drop] using hreset

/-- The discard, with the demodulator reset. -/
theorem discardBacklog_reset {p : Pass} (hidle : p.machine.rphase = .idle)
    (hovf : p.machine.cfg.ovfResetsDemod = true) :
    discardBacklog ⟨counted p, p.gaps.drop 1⟩ =
      .next ⟨respond id (clearDemod (quiet (writes (p.gaps.getD 3 [])
        (afterRingReset (p.gaps.getD 2 []) (atDiscard p))))), p.gaps.drop 4⟩ := by
  have hreset := pipeReset_eq (p := ⟨counted p, p.gaps.drop 1⟩) (by simpa using hidle)
  simpa [discardBacklog, hovf, atDiscard, List.getElem?_drop] using hreset

/-- With no sample written the discard leaves the sample memory as it is (R118). -/
theorem atDiscard_mem {p : Pass} (hgaps : p.gaps = []) : (atDiscard p).mem = p.machine.mem := by
  simp [atDiscard, atStep, counted, hgaps]

/-- Settles O51: by the policy `OVF_RESETS_DEMOD`; what is written after the reset window comes before
`DM.RESET`, which leaves the ring buffer alone. -/
theorem serviceDiscardsBacklog : Obligations.ServiceDiscardsBacklog := by
  intro p m kept hs hidle hm hbacklog hkept
  have hgap : p.gaps.headD [] = p.gaps.getD 0 [] := headD_drop p.gaps 0
  obtain rfl : m = writes (p.gaps.headD []) p.machine := by
    rw [writeAll_eq, ← hgap] at hm
    exact (Host.Outcome.next.inj hm).symm
  rw [writes_cfg] at hbacklog hkept ⊢
  have hinv := inv_atDiscard hs hidle
  have hcells : ∀ after a, (∀ k, k < (p.gaps.getD 0 [] ++ p.gaps.getD 1 []).length →
        a ≠ (p.machine.head + k) % p.machine.cfg.sampleLen) →
      (∀ k, k < (p.gaps.getD 2 [] ++ after).length → a ≠ k % p.machine.cfg.sampleLen) →
      sampleAt (writes after (afterRingReset (p.gaps.getD 2 []) (atDiscard p))) a =
        sampleAt p.machine a := fun after a hbefore hnew =>
    (sampleAt_after_reset _ after hinv (by simpa using hnew)).trans
      (sampleAt_atDiscard hs hidle hbefore)
  have hhead := fun after => head_after_reset (p.gaps.getD 2 []) after hinv
  have hholds := fun after => holds_after_reset (p.gaps.getD 2 []) after hinv
  simp only [atDiscard_cfg] at hhead hholds
  cases hovf : p.machine.cfg.ovfResetsDemod with
  | false =>
    obtain rfl : kept = p.gaps.getD 2 [] ++ [] := by simpa [hovf] using hkept
    exact ⟨_, service_backlog hbacklog (discardBacklog_keep hidle hovf), rfl, rfl, rfl, rfl, rfl, hhead [],
      hholds [], hcells [], fun hnil => by simp [afterRingReset, hnil, atDiscard_mem hnil],
      fun h => by simp at h,
      fun _ => sameDemod_trans (sameDemod_atDiscard p) (sameDemod_afterRingReset _)⟩
  | true =>
    obtain rfl : kept = p.gaps.getD 2 [] ++ p.gaps.getD 3 [] := by simpa [hovf] using hkept
    exact ⟨_, service_backlog hbacklog (discardBacklog_reset hidle hovf), rfl, rfl, rfl,
      by simp [afterRingReset], by simp [afterRingReset], hhead _,
      fun hcap => { hholds _ hcap with }, hcells _,
      fun hnil => by simp [afterRingReset, hnil, atDiscard_mem hnil],
      fun _ => ⟨rfl, rfl, rfl, by simp [afterRingReset, zeroFrame]⟩, fun h => by simp at h⟩

end Sys2Proof.ServiceProofs

/-! Proofs about the drain loop of `SERVICE` (`43_composite_ops.md` R182, R186). First that the count covers
every read, whatever the producer writes; then, as long as the buffer does not overflow, that the loop
follows the demodulator over the samples of the snapshot. -/

namespace Sys2Proof.DrainProofs
open Sys2Proof Sys2Proof.Machine Sys2Proof.RingBufferProofs Sys2Proof.DemodulatorProofs
open Sys2Proof.FrameDecoderProofs Sys2Proof.InvariantProofs Sys2Proof.StepProofs Sys2Proof.FifoProofs
open Sys2Proof.PatternProofs Sys2Proof.OwnershipProofs Sys2Proof.ServiceProofs

/-! ## No command is refused (R186 (e)) -/

/-- Between two commands of a pass: the invariants hold, no `RB.RESET` is in progress, and the count in
hand covers `n` reads. -/
structure Ready (p : Pass) (n : Nat) : Prop where
  inv : p.machine.Inv
  idle : p.machine.rphase = .idle
  credit : n ≤ p.machine.readCredit

/-- DM and FD operations always complete. -/
theorem exec_total {i : Instr} (hi : isRingOp i = false) (s : State) : ∃ t, exec i s = .next t := by
  cases i with
  | rbWrite b => cases hi
  | rbAvail => cases hi
  | rbRead => cases hi
  | rbReset => cases hi
  | _ => exact ⟨_, rfl⟩

/-- A DM or FD operation leaves the count in hand. -/
theorem ready_passStep {i : Instr} (hi : isRingOp i = false) {p : Pass} {n : Nat} (h : Ready p n) :
    ∃ q, passStep i p = .next q ∧ Ready q n := by
  obtain ⟨t, ht⟩ := exec_total hi (atStep p)
  obtain ⟨-, -, -, -, hphase, hcredit⟩ := sameRing_exec hi ht
  have hidle : (atStep p).rphase = .idle := by simp [h.idle]
  exact ⟨_, passStep_next ht, inv_exec (inv_atStep h.inv) hidle ht, hphase.trans hidle,
    by simpa [hcredit] using h.credit⟩

/-- A read that the count covers completes, and uses up one of it (R116). -/
theorem ready_rbRead {p : Pass} {n : Nat} (h : Ready p (n + 1)) :
    ∃ q, passStep .rbRead p = .next q ∧ Ready q n := by
  have hcredit := h.credit
  have hidle : (atStep p).rphase = .idle := by simp [h.idle]
  have hread := exec_rbRead_available
    ((somethingAvailable_iff (atStep p)).2 (.inl (by rw [atStep_readCredit]; omega)))
  exact ⟨_, passStep_next hread, inv_exec (inv_atStep h.inv) hidle hread, hidle,
    by simpa using Nat.le_sub_one_of_lt hcredit⟩

theorem ready_collectFrame {p : Pass} {n : Nat} (h : Ready p n) :
    ∃ r, collectFrame p = .next r ∧ Ready r.1 n := by
  unfold collectFrame
  split
  · obtain ⟨q, hq, hready⟩ := ready_passStep (i := .dmGetmsg) rfl h
    obtain ⟨r, hr, hready'⟩ := ready_passStep (i := .dmReset) rfl hready
    exact ⟨_, by rw [hq, andThen_next, hr, andThen_next], hready'⟩
  · exact ⟨_, rfl, h⟩

theorem ready_drainOne {p : Pass} {n : Nat} (h : Ready p (n + 1)) :
    ∃ r, drainOne p = .next r ∧ Ready r.1 n := by
  obtain ⟨q, hq, hready⟩ := ready_rbRead h
  obtain ⟨u, hu, hready⟩ := ready_passStep (i := .dmProc (shownBit q.machine)) rfl hready
  obtain ⟨v, hv, hready⟩ := ready_passStep (i := .dmRxlen) rfl hready
  obtain ⟨r, hr, hready⟩ := ready_collectFrame hready
  exact ⟨r, by rw [drainOne, hq, andThen_next, hu, andThen_next, hv, andThen_next, hr], hready⟩

theorem ready_drain {p : Pass} {n : Nat} (h : Ready p n) : ∃ r, drain n p = .next r ∧ Ready r.1 0 := by
  induction n generalizing p with
  | zero => exact ⟨_, rfl, h⟩
  | succ n ih =>
    obtain ⟨q, hq, hready⟩ := ready_drainOne h
    obtain ⟨r, hr, hready'⟩ := ih hready
    exact ⟨(r.1, q.2 ++ r.2), by rw [drain, hq, andThen_next, hr, andThen_next], hready'⟩

theorem ready_discardBacklog {p : Pass} (h : Ready p 0) :
    ∃ r, discardBacklog p = .next r ∧ Ready r 0 := by
  have hreset := inv_afterRingReset (p.gaps.getD 1 []) (inv_atStep h.inv)
  unfold discardBacklog
  split
  · exact ⟨_, pipeReset_eq h.idle, inv_respond_undriven (inv_clearDemod (inv_quiet (inv_writes hreset _)))
      (fun _ => rfl) fun _ => rfl, by simp [afterRingReset], Nat.zero_le _⟩
  · exact ⟨_, passRingReset_eq h.idle, hreset, rfl, Nat.zero_le _⟩

/-- Settles O53: the loop reads as often as the count it starts with says. -/
theorem serviceIsNeverRefused : Obligations.ServiceIsNeverRefused := by
  intro p hs hidle
  have hcounted : Ready ⟨counted p, p.gaps.drop 1⟩ (bufferedLength (atStep p)) :=
    ⟨inv_counted hs hidle, by simpa using hidle, le_refl _⟩
  by_cases hbacklog : p.machine.cfg.sampleLen < 2 * bufferedLength (atStep p)
  · obtain ⟨r, hr, hready⟩ := ready_discardBacklog { hcounted with credit := Nat.zero_le _ }
    exact ⟨_, service_backlog hbacklog hr, hready.inv, hready.idle⟩
  · obtain ⟨r, hr, hready⟩ := ready_drain hcounted
    exact ⟨_, service_drain hbacklog hr, hready.inv, hready.idle⟩

/-! ## What follows a sample (R182) -/

/-- The completion test of R182 as steps: a completed frame is taken and the demodulator reset. -/
def collectSteps (d : State) : List Instr :=
  if d.nbits = d.cfg.msgBits then [.dmGetmsg, .dmReset] else []

/-- The demodulator after the completion test. -/
def collected (d : State) : State := if d.nbits = d.cfg.msgBits then clearDemod d else d

/-- The frames that the completion test takes. -/
def collectedFrames (d : State) : List Frame := if d.nbits = d.cfg.msgBits then [d.msg] else []

theorem drainSteps_cons (b : Bit) (bs : List Bit) (d : State) :
    drainSteps (b :: bs) d = [.rbRead, .dmProc b, .dmRxlen] ++
      (collectSteps (takeLevel b d) ++ drainSteps bs (collected (takeLevel b d))) := by
  by_cases h : (takeLevel b d).nbits = d.cfg.msgBits <;> simp [drainSteps, collectSteps, collected, h]

theorem framesOf_cons (b : Bit) (bs : List Bit) (d : State) :
    framesOf (b :: bs) d = ((framesOf bs (collected (takeLevel b d))).1,
      collectedFrames (takeLevel b d) ++ (framesOf bs (collected (takeLevel b d))).2) := by
  by_cases h : (takeLevel b d).nbits = d.cfg.msgBits <;>
    simp [framesOf, collectedFrames, collected, h]

/-! ## A pass that keeps up (R184, R186 (a), (b)) -/

/-- Where a pass stands that does not overflow: the unread samples, the demodulator (as a machine `d` that
takes the samples alone), and the steps still to come, during which the buffer never overflows. -/
structure Serves (p : Pass) (unread : List Bit) (d : State) (steps : List Instr) : Prop where
  inv : p.machine.Inv
  holds : p.machine.Holds unread
  demod : d.sameDemod p.machine
  cfg : p.machine.cfg = d.cfg
  keeps : keepsUp d.cfg.sampleLen unread.length p.gaps steps = true

/-- The samples that the producer writes before the next `k` steps of a pass. -/
def due (p : Pass) (k : Nat) : List Bit := (p.gaps.take k).flatten

theorem due_one (p : Pass) : due p 1 = p.gaps.headD [] := by
  unfold due
  cases p.gaps <;> simp

theorem due_add {p q : Pass} {j : Nat} (h : q.gaps = p.gaps.drop j) (k : Nat) :
    due p (j + k) = due p j ++ due q k := by
  simp [due, h, List.take_add]

theorem holds_of_sameRing {s t : State} {q : List Bit} (h : s.Holds q) (hring : s.sameRing t)
    (hcfg : t.cfg = s.cfg) : t.Holds q := by
  obtain ⟨hcell, -, hhead, htail, hphase, -⟩ := hring
  obtain ⟨hrest, hcap, hcount, hsamples⟩ := h
  constructor <;> simpa [bufferedLength, hcell, hhead, htail, hphase, hcfg]

section
variable {p : Pass} {unread : List Bit} {d : State} {i : Instr} {steps : List Instr}

/-- The producer's samples join the queue before the step. -/
theorem holds_atStep (h : Serves p unread d (i :: steps)) : (atStep p).Holds (unread ++ due p 1) := by
  have hcap := h.keeps
  rw [keepsUp, Bool.and_eq_true, decide_eq_true_eq] at hcap
  rw [due_one]
  exact holds_quiet (holds_writes h.inv h.holds (by rw [h.cfg]; exact hcap.1))

theorem demod_atStep (h : Serves p unread d steps) : d.sameDemod (atStep p) :=
  sameDemod_trans h.demod (sameDemod_atStep p)

theorem atStep_cfg_of_serves (h : Serves p unread d steps) : (atStep p).cfg = d.cfg := by
  rw [atStep_cfg, h.cfg]

/-- One step of the pass, given what its operation does to the queue and to the demodulator. -/
theorem serves_step {t d' : State} {unread' : List Bit} (h : Serves p unread d (i :: steps))
    (ht : exec i (atStep p) = .next t) (hholds : t.Holds unread')
    (hlen : unread'.length = (unread ++ due p 1).length - if i = .rbRead then 1 else 0)
    (hdemod : d'.sameDemod t) (hcfg : d'.cfg = d.cfg) :
    Serves ⟨t, p.gaps.drop 1⟩ unread' d' steps where
  inv := inv_exec (inv_atStep h.inv) (holds_atStep h).at_rest ht
  holds := hholds
  demod := hdemod
  cfg := by
    obtain ⟨hcfg', -⟩ := sameEnvironment_exec ht
    rw [hcfg, ← h.cfg, ← atStep_cfg p, hcfg']
  keeps := by
    have hkeeps := h.keeps
    rw [keepsUp, Bool.and_eq_true] at hkeeps
    rw [hcfg, hlen, List.length_append, due_one, List.drop_one]
    exact hkeeps.2

/-- A DM step: the queue grows by the samples due, and the demodulator follows the operation. -/
theorem serves_dm {t d' : State} (h : Serves p unread d (i :: steps)) (hi : isRingOp i = false)
    (ht : exec i (atStep p) = .next t) (hdemod : d'.sameDemod t) (hcfg : d'.cfg = d.cfg) :
    Serves ⟨t, p.gaps.drop 1⟩ (unread ++ due p 1) d' steps := by
  have hread : i ≠ .rbRead := fun heq => by simp [heq, isRingOp] at hi
  obtain ⟨hcfg', -⟩ := sameEnvironment_exec ht
  exact serves_step h ht (holds_of_sameRing (holds_atStep h) (sameRing_exec hi ht) hcfg')
    (by simp [hread]) hdemod hcfg

/-- `RB.READ` shows the oldest unread sample and takes it. -/
theorem serves_rbRead {b : Bit} (h : Serves p (b :: unread) d (.rbRead :: steps)) :
    ∃ q, passStep .rbRead p = .next q ∧ q.gaps = p.gaps.drop 1 ∧ shownBit q.machine = b ∧
      Serves q (unread ++ due p 1) d steps := by
  have hholds : (atStep p).Holds (b :: (unread ++ due p 1)) := holds_atStep h
  have hread := exec_rbRead_available (available_of_holds hholds)
  exact ⟨_, passStep_next hread, rfl, sampleAt_tail_of_holds (inv_atStep h.inv) hholds,
    serves_step h hread (holds_respond (holds_takeSample (inv_atStep h.inv) hholds) _) (by simp)
      (demod_atStep h) rfl⟩

/-- `DM.PROC` takes the sample as the demodulator alone would. -/
theorem serves_dmProc {b : Bit} (h : Serves p unread d (.dmProc b :: steps)) :
    ∃ q, passStep (.dmProc b) p = .next q ∧ q.gaps = p.gaps.drop 1 ∧
      Serves q (unread ++ due p 1) (takeLevel b d) steps :=
  ⟨_, passStep_next (exec_dmProc b _), rfl, serves_dm h rfl (exec_dmProc b _)
    (sameDemod_takeLevel_congr (demod_atStep h) (atStep_cfg_of_serves h) b) (takeLevel_cfg b d)⟩

/-- `DM.RXLEN` shows the bit count of the demodulator. -/
theorem serves_dmRxlen (h : Serves p unread d (.dmRxlen :: steps)) :
    ∃ q, passStep .dmRxlen p = .next q ∧ q.gaps = p.gaps.drop 1 ∧ shownCount q.machine = d.nbits ∧
      Serves q (unread ++ due p 1) d steps := by
  obtain ⟨-, -, hnbits, -⟩ := demod_atStep h
  exact ⟨_, passStep_next (exec_dmRxlen _), rfl, hnbits,
    serves_dm h rfl (exec_dmRxlen _) (demod_atStep h) rfl⟩

/-- `DM.GETMSG` shows the buffer of the demodulator. -/
theorem serves_dmGetmsg (h : Serves p unread d (.dmGetmsg :: steps)) :
    ∃ q, passStep .dmGetmsg p = .next q ∧ q.gaps = p.gaps.drop 1 ∧ shownFrame q.machine = d.msg ∧
      Serves q (unread ++ due p 1) d steps := by
  obtain ⟨-, -, -, hmsg⟩ := demod_atStep h
  exact ⟨_, passStep_next (exec_dmGetmsg _), rfl, hmsg,
    serves_dm h rfl (exec_dmGetmsg _) (demod_atStep h) rfl⟩

theorem serves_dmReset (h : Serves p unread d (.dmReset :: steps)) :
    ∃ q, passStep .dmReset p = .next q ∧ q.gaps = p.gaps.drop 1 ∧
      Serves q (unread ++ due p 1) (clearDemod d) steps :=
  ⟨_, passStep_next (exec_dmReset _), rfl, serves_dm h rfl (exec_dmReset _)
    ⟨rfl, rfl, rfl, congrArg zeroFrame (atStep_cfg_of_serves h)⟩ rfl⟩

end

/-! ## The loop -/

/-- The completion test, given that the bit count has just been shown. -/
theorem serves_collectFrame {p : Pass} {unread : List Bit} {d : State} {steps : List Instr}
    (h : Serves p unread d (collectSteps d ++ steps)) (hshown : shownCount p.machine = d.nbits) :
    ∃ r, collectFrame p = .next (r, collectedFrames d) ∧ r.gaps = p.gaps.drop (collectSteps d).length ∧
      Serves r (unread ++ due p (collectSteps d).length) (collected d) steps := by
  by_cases hfull : d.nbits = d.cfg.msgBits
  · have htest : shownCount p.machine = p.machine.cfg.msgBits := by rw [hshown, h.cfg, hfull]
    simp only [collectSteps, collected, collectedFrames, if_pos hfull] at h ⊢
    obtain ⟨q, hq, hgaps, hframe, h⟩ := serves_dmGetmsg h
    obtain ⟨r, hr, hgaps', h⟩ := serves_dmReset h
    rw [List.append_assoc, ← due_add hgaps] at h
    exact ⟨r, by simp [collectFrame, htest, hq, hr, hframe], by simp [hgaps', hgaps], h⟩
  · have htest : ¬ shownCount p.machine = p.machine.cfg.msgBits := by rwa [hshown, h.cfg]
    simp only [collectSteps, collected, collectedFrames, if_neg hfull] at h ⊢
    exact ⟨p, by simp [collectFrame, htest], by simp, by simpa [due] using h⟩

/-- One turn of the loop: one sample of the snapshot, and what follows it. -/
theorem serves_drainOne {p : Pass} {b : Bit} {unread : List Bit} {d : State} {steps : List Instr}
    (h : Serves p (b :: unread) d
      ([.rbRead, .dmProc b, .dmRxlen] ++ (collectSteps (takeLevel b d) ++ steps))) :
    ∃ r, drainOne p = .next (r, collectedFrames (takeLevel b d)) ∧
      r.gaps = p.gaps.drop (3 + (collectSteps (takeLevel b d)).length) ∧
      Serves r (unread ++ due p (3 + (collectSteps (takeLevel b d)).length))
        (collected (takeLevel b d)) steps := by
  obtain ⟨q₁, hq₁, hgaps₁, hbit, h⟩ := serves_rbRead h
  obtain ⟨q₂, hq₂, hgaps₂, h⟩ := serves_dmProc h
  rw [List.append_assoc, ← due_add hgaps₁] at h
  rw [hgaps₁, List.drop_drop] at hgaps₂
  obtain ⟨q₃, hq₃, hgaps₃, hshown, h⟩ := serves_dmRxlen h
  rw [List.append_assoc, ← due_add hgaps₂] at h
  rw [hgaps₂, List.drop_drop] at hgaps₃
  obtain ⟨r, hr, hgaps, h⟩ := serves_collectFrame h hshown
  rw [List.append_assoc, ← due_add hgaps₃] at h
  rw [hgaps₃, List.drop_drop] at hgaps
  exact ⟨r, by rw [drainOne, hq₁, andThen_next, hbit, hq₂, andThen_next, hq₃, andThen_next, hr],
    hgaps, h⟩

/-- The loop over a snapshot, with samples that came after it behind: it takes exactly the snapshot, gives
the frames of R229, and what was written meanwhile is left behind the rest. -/
theorem serves_drain {snap : List Bit} {p : Pass} {unread : List Bit} {d : State}
    (h : Serves p (snap ++ unread) d (drainSteps snap d)) :
    ∃ r, drain snap.length p = .next (r, (framesOf snap d).2) ∧
      r.gaps = p.gaps.drop (drainSteps snap d).length ∧
      Serves r (unread ++ due p (drainSteps snap d).length) (framesOf snap d).1 [] := by
  induction snap generalizing p unread d with
  | nil => exact ⟨p, rfl, rfl, by simpa [due, framesOf, drainSteps] using h⟩
  | cons b snap ih =>
    rw [drainSteps_cons, List.cons_append] at h
    obtain ⟨q, hq, hgaps, h⟩ := serves_drainOne h
    rw [List.append_assoc] at h
    obtain ⟨r, hr, hgaps', h⟩ := ih h
    rw [List.append_assoc, ← due_add hgaps] at h
    rw [hgaps, List.drop_drop] at hgaps'
    rw [framesOf_cons, drainSteps_cons, List.length_append, List.length_append, ← Nat.add_assoc]
    exact ⟨r, by rw [List.length_cons, drain, hq, andThen_next, hr, andThen_next], hgaps', h⟩

/-- Settles O52: after the count the queue is the snapshot, and the loop takes it. -/
theorem serviceDeliversCompletedFrames : Obligations.ServiceDeliversCompletedFrames := by
  intro p q snap steps hs hholds hsnap hhalf hsteps hkeeps
  subst hsteps
  have hstart : Serves p q p.machine (.rbAvail :: drainSteps snap p.machine) :=
    ⟨hs, hholds, sameDemod_refl _, rfl, hkeeps⟩
  rw [← due_one] at hsnap
  have hqueue : (atStep p).Holds snap := hsnap ▸ holds_atStep hstart
  have hcounted : Serves ⟨counted p, p.gaps.drop 1⟩ (snap ++ []) p.machine
      (drainSteps snap p.machine) := by
    rw [List.append_nil]
    exact serves_step hstart (exec_rbAvail _) (holds_respond (holds_grantCredit hqueue _) _)
      (by simp [hsnap]) (sameDemod_atStep p) rfl
  obtain ⟨r, hr, hgaps, h⟩ := serves_drain hcounted
  rw [← hqueue.count] at hr
  have hsmall : ¬ p.machine.cfg.sampleLen < 2 * bufferedLength (atStep p) := by
    rw [hqueue.count]
    omega
  rw [List.drop_one] at hgaps
  exact ⟨_, service_drain hsmall hr, rfl, rfl, h.demod, hgaps, by simpa [due] using h.holds⟩

end Sys2Proof.DrainProofs
